-- ==== Sys2Proof/Word.lean ====
section
/-! DEFINITION. The words of the register bank: what the spec treats as bits (00_scope.md R11, 10_state.md R20). Line
offsets, bank and bit indices, counts and frequencies are natural numbers there (R11) and here. -/

namespace Sys2Proof

/-- An 8-bit register or 8-bit transaction value (R9). -/
abbrev Byte := BitVec 8

/-- A 16-bit event-config word or 16-bit transaction value (R9). -/
abbrev Half := BitVec 16

/-- A 2-bit slot code: `0b00` none, `0b01` rising, `0b10` falling, `0b11` both (R14, R23). -/
abbrev Code := BitVec 2

/-- The 64 levels of the input pins, or of the output pins: bit `p` is position `p` (R34, R95). -/
abbrev Lines := BitVec 64

end Sys2Proof
end

