-- ==== Sys2Proof/Syntax.lean ====
section
/-! DEFINITION. The operations and bus transactions of the block, one constructor per row of the operation map
(30_encoding.md R86, R87), and the pseudo-operations that expand to them (R96). -/

namespace Sys2Proof

/-- A line's direction, the `d` operand of DIRSET (R73): `0` output, `1` input. -/
inductive Direction where
  | output
  | input
  deriving DecidableEq, Repr

/-- What a host can ask of the block. Line offsets `o`, `l` are global offsets, 0..127 (R70, R72); banks `b` are 0..7
(R9); a level or an enable is one bit (R73); the trigger type `t` is 4 bits (R74). -/
inductive Instr where
  -- the fourteen operations (R86)
  | init
  | clksel
  | portw
  | ifen (en : Bool)
  | dirget (o : Nat)
  | dirset (o : Nat) (d : Direction)
  | dirout (o : Nat) (v : Bool)
  | get (o : Nat)
  | set (o : Nat) (v : Bool)
  | settype (l : Nat) (t : BitVec 4)
  | mask (l : Nat)
  | unmask (l : Nat)
  | ack (l : Nat)
  | dispatch
  -- the fourteen bus transactions (R87)
  | rd8Wdata (b : Nat)
  | wr8Wdata (b : Nat) (v : Byte)
  | rd8Rdata (b : Nat)
  | wr8Rdata (b : Nat) (v : Byte)
  | rd16Evcfg (b : Nat)
  | wr16Evcfg (b : Nat) (v : Half)
  | rd8Evsts (b : Nat)
  | wr8Evsts (b : Nat) (v : Byte)
  | rd8Ctrl
  | wr8Ctrl (v : Byte)
  | rd8Clkcfg
  | wr8Clkcfg (v : Byte)
  | rd8Portcfg
  | wr8Portcfg (v : Byte)
  deriving DecidableEq, Repr

/-- `DIRIN o` is `DIRSET o, in` (R96). -/
abbrev Instr.dirin (o : Nat) : Instr := .dirset o .input

/-- `EN` is `IFEN 1` (R96). -/
abbrev Instr.en : Instr := .ifen true

/-- `DIS` is `IFEN 0` (R96). -/
abbrev Instr.dis : Instr := .ifen false

/-- `SETHI o` is `SET o, 1` (R96). -/
abbrev Instr.sethi (o : Nat) : Instr := .set o true

/-- `SETLO o` is `SET o, 0` (R96). -/
abbrev Instr.setlo (o : Nat) : Instr := .set o false

/-- One word a host presents: an operation word or a bus transaction descriptor (R70, R71). The block has no stored
program; the two formats are told apart by how they are presented, not by their bits (D3, D4). -/
inductive HostWord where
  | opw (w : BitVec 16)
  | busw (w : BitVec 24)
  deriving DecidableEq, Repr

end Sys2Proof
end

