-- ==== Sys2Proof/WellFormed.lean ====
section
/-! DEFINITION. Which terms of `Instr` an encoding can hold: a line offset fits the seven bits of `LINE` (30_encoding.md
R70), a bank is one of eight (R87). The other operands are typed to their width. -/

namespace Sys2Proof

/-- A line offset that fits `LINE`, bits 6:0 of the operation word (R70). -/
def lineFits (o : Nat) : Bool := decide (o < 128)

/-- A bank number that fits `bbb` (R87). -/
def bankFits (b : Nat) : Bool := decide (b < 8)

/-- The operands of an instruction fit its encoding. -/
def Instr.wellFormed : Instr → Bool
  | .init => true
  | .clksel => true
  | .portw => true
  | .ifen _ => true
  | .dirget o => lineFits o
  | .dirset o _ => lineFits o
  | .dirout o _ => lineFits o
  | .get o => lineFits o
  | .set o _ => lineFits o
  | .settype l _ => lineFits l
  | .mask l => lineFits l
  | .unmask l => lineFits l
  | .ack l => lineFits l
  | .dispatch => true
  | .rd8Wdata b => bankFits b
  | .wr8Wdata b _ => bankFits b
  | .rd8Rdata b => bankFits b
  | .wr8Rdata b _ => bankFits b
  | .rd16Evcfg b => bankFits b
  | .wr16Evcfg b _ => bankFits b
  | .rd8Evsts b => bankFits b
  | .wr8Evsts b _ => bankFits b
  | .rd8Ctrl => true
  | .wr8Ctrl _ => true
  | .rd8Clkcfg => true
  | .wr8Clkcfg _ => true
  | .rd8Portcfg => true
  | .wr8Portcfg _ => true

end Sys2Proof
end

