-- ==== Sys2Proof/Decode.lean ====
section
/-! DEFINITION. Decoding of operation words and bus transaction descriptors (30_encoding.md R70, R71, R86, R87, R90, R91),
and after it the encoder written from the same tables. -/

namespace Sys2Proof

/-- Why a word has no meaning (R90, R91). -/
inductive DecodeError where
  /-- `OPC` 0xE or 0xF (R90). -/
  | reservedOpc
  /-- Bit 7 of an operation word is 1 (R90). -/
  | bit7Set
  /-- A nonzero field that the operation does not use (R90). -/
  | unusedField
  /-- An 8-bit transaction at an `EVCFG` offset, 0x10 to 0x1F (R91). -/
  | byteAccessToEvcfg
  /-- A 16-bit transaction anywhere but an even offset in 0x10 to 0x1E (R91). -/
  | halfAccess
  /-- A transaction at offset 0x29, or at 0x2C to 0x3F (R91). -/
  | undefinedOffset
  /-- An 8-bit write with `DATA[15:8]` not 0 (R91). -/
  | highData
  deriving DecidableEq, Repr

/-- The four fields of an operation word (R70). -/
structure OpFields where
  opc : BitVec 4
  arg : BitVec 4
  z : BitVec 1
  line : BitVec 7
  deriving DecidableEq, Repr

/-- Split an operation word: `OPC` 15:12, `ARG` 11:8, `Z` 7, `LINE` 6:0 (R70). -/
def splitOpw (w : BitVec 16) : OpFields :=
  { opc := w.extractLsb' 12 4, arg := w.extractLsb' 8 4, z := w.extractLsb' 7 1, line := w.extractLsb' 0 7 }

/-- An operation that uses neither `ARG` nor `LINE`: both must be zero (R86, R90). -/
def takesNothing (f : OpFields) (i : Instr) : Except DecodeError Instr :=
  if f.arg = 0 ∧ f.line = 0 then .ok i else .error .unusedField

/-- An operation that uses `LINE` alone: `ARG` must be zero (R86, R90). -/
def takesLine (f : OpFields) (i : Nat → Instr) : Except DecodeError Instr :=
  if f.arg = 0 then .ok (i f.line.toNat) else .error .unusedField

/-- An operation that uses bit 8 and `LINE`: bits 11:9 must be zero (R86, R90). -/
def takesBitAndLine (f : OpFields) (i : Nat → Bool → Instr) : Except DecodeError Instr :=
  if f.arg.extractLsb' 1 3 = 0 then .ok (i f.line.toNat (f.arg.getLsbD 0)) else .error .unusedField

/-- The direction operand: 0 output, 1 input (R73). -/
def directionOfBit : Bool → Direction
  | false => .output
  | true => .input

/-- Decode the fields of an operation word by the operation map (R86, R90). -/
def decodeFields (f : OpFields) : Except DecodeError Instr :=
  if f.z = 1 then .error .bit7Set
  else
    match f.opc.toNat with
    | 0x0 => takesNothing f .init
    | 0x1 => takesNothing f .clksel
    | 0x2 => takesNothing f .portw
    | 0x3 => if f.line = 0 then takesBitAndLine f (fun _ en => .ifen en) else .error .unusedField
    | 0x4 => takesLine f .dirget
    | 0x5 => takesBitAndLine f (fun o d => .dirset o (directionOfBit d))
    | 0x6 => takesBitAndLine f .dirout
    | 0x7 => takesLine f .get
    | 0x8 => takesBitAndLine f .set
    | 0x9 => .ok (.settype f.line.toNat f.arg)
    | 0xA => takesLine f .mask
    | 0xB => takesLine f .unmask
    | 0xC => takesLine f .ack
    | 0xD => takesNothing f .dispatch
    | _ => .error .reservedOpc

/-- Decode a 16-bit operation word (R70, R86, R90). -/
def decodeOpw (w : BitVec 16) : Except DecodeError Instr :=
  decodeFields (splitOpw w)

/-- An 8-bit write takes `DATA[7:0]`; `DATA[15:8]` must be 0 (R71, R91). -/
def takesByte (data : BitVec 16) (i : Byte → Instr) : Except DecodeError Instr :=
  if data.extractLsb' 8 8 = 0 then .ok (i (data.extractLsb' 0 8)) else .error .highData

/-- A 16-bit transaction: an even offset in 0x10 to 0x1E is `EVCFG[b]` with `b = OFF[3:1]` (R87, R91). -/
def decodeHalf (write : Bool) (off : Nat) (data : BitVec 16) : Except DecodeError Instr :=
  if 0x10 ≤ off ∧ off < 0x20 ∧ off % 2 = 0 then
    if write then .ok (.wr16Evcfg ((off - 0x10) / 2) data) else .ok (.rd16Evcfg ((off - 0x10) / 2))
  else .error .halfAccess

/-- An 8-bit transaction, by its offset (R87, R91). -/
def decodeByte (write : Bool) (off : Nat) (data : BitVec 16) : Except DecodeError Instr :=
  if off < 0x08 then
    if write then takesByte data (.wr8Wdata off) else .ok (.rd8Wdata off)
  else if off < 0x10 then
    if write then takesByte data (.wr8Rdata (off - 0x08)) else .ok (.rd8Rdata (off - 0x08))
  else if off < 0x20 then .error .byteAccessToEvcfg
  else if off < 0x28 then
    if write then takesByte data (.wr8Evsts (off - 0x20)) else .ok (.rd8Evsts (off - 0x20))
  else if off = 0x28 then
    if write then takesByte data .wr8Ctrl else .ok .rd8Ctrl
  else if off = 0x2A then
    if write then takesByte data .wr8Clkcfg else .ok .rd8Clkcfg
  else if off = 0x2B then
    if write then takesByte data .wr8Portcfg else .ok .rd8Portcfg
  else .error .undefinedOffset

/-- Decode the request byte `W`, `SZ`, `OFF` of a descriptor with its `DATA` (R71, R87). -/
def decodeRequest (req : BitVec 8) (data : BitVec 16) : Except DecodeError Instr :=
  let write := req.getLsbD 7
  let off := (req.extractLsb' 0 6).toNat
  if req.getLsbD 6 then decodeHalf write off data else decodeByte write off data

/-- Decode a 24-bit bus transaction descriptor: `W` 23, `SZ` 22, `OFF` 21:16, `DATA` 15:0 (R71, R87, R91). -/
def decodeBusw (w : BitVec 24) : Except DecodeError Instr :=
  decodeRequest (w.extractLsb' 16 8) (w.extractLsb' 0 16)

/-- The instruction a presented word stands for, or why it stands for none. -/
def decode : HostWord → Except DecodeError Instr
  | .opw w => decodeOpw w
  | .busw w => decodeBusw w

/-- The word presented for an instruction whose bits are `w`: 16 bits an operation word, 24 bits a descriptor (R70, R71). -/
def tableWord (nbits w : Nat) : Option HostWord :=
  if nbits = 16 then some (.opw (BitVec.ofNat 16 w))
  else if nbits = 24 then some (.busw (BitVec.ofNat 24 w))
  else none

/-- The instruction the decoder reads from a table row's bits. -/
def decodeTableWord (nbits w : Nat) : Option Instr :=
  match tableWord nbits w with
  | none => none
  | some hw =>
    match decode hw with
    | .ok i => some i
    | .error _ => none

/-! ### The encoder -/

/-- Assemble an operation word (R70): `OPC`, `ARG`, a zero bit, `LINE`. -/
def opw (opc arg : BitVec 4) (line : Nat) : HostWord :=
  .opw ((((opc ++ arg) ++ (0#1)) ++ BitVec.ofNat 7 line : BitVec 16))

/-- One bit in bit 8 of the operation word: `ARG[0]` (R70). -/
def argBit (b : Bool) : BitVec 4 := if b then 1 else 0

/-- The direction operand as a bit (R73). -/
def Direction.bit : Direction → Bool
  | .output => false
  | .input => true

/-- Assemble a descriptor (R71): the request byte `W`, `SZ`, `OFF`, then `DATA`. -/
def busw (w sz : BitVec 1) (off : Nat) (data : BitVec 16) : HostWord :=
  .busw ((((w ++ sz) ++ BitVec.ofNat 6 off) ++ data : BitVec 24))

/-- A byte in `DATA[7:0]`, with `DATA[15:8]` zero (R71). -/
def dataByte (v : Byte) : BitVec 16 := (0#8) ++ v

/-- The word of an instruction (R86, R87); its operands are taken modulo their field, so it is meant for well-formed terms. -/
def encode : Instr → HostWord
  | .init => opw 0x0 0 0
  | .clksel => opw 0x1 0 0
  | .portw => opw 0x2 0 0
  | .ifen en => opw 0x3 (argBit en) 0
  | .dirget o => opw 0x4 0 o
  | .dirset o d => opw 0x5 (argBit d.bit) o
  | .dirout o v => opw 0x6 (argBit v) o
  | .get o => opw 0x7 0 o
  | .set o v => opw 0x8 (argBit v) o
  | .settype l t => opw 0x9 t l
  | .mask l => opw 0xA 0 l
  | .unmask l => opw 0xB 0 l
  | .ack l => opw 0xC 0 l
  | .dispatch => opw 0xD 0 0
  | .rd8Wdata b => busw 0 0 (0x00 + b) 0
  | .wr8Wdata b v => busw 1 0 (0x00 + b) (dataByte v)
  | .rd8Rdata b => busw 0 0 (0x08 + b) 0
  | .wr8Rdata b v => busw 1 0 (0x08 + b) (dataByte v)
  | .rd16Evcfg b => busw 0 1 (0x10 + 2 * b) 0
  | .wr16Evcfg b v => busw 1 1 (0x10 + 2 * b) v
  | .rd8Evsts b => busw 0 0 (0x20 + b) 0
  | .wr8Evsts b v => busw 1 0 (0x20 + b) (dataByte v)
  | .rd8Ctrl => busw 0 0 0x28 0
  | .wr8Ctrl v => busw 1 0 0x28 (dataByte v)
  | .rd8Clkcfg => busw 0 0 0x2A 0
  | .wr8Clkcfg v => busw 1 0 0x2A (dataByte v)
  | .rd8Portcfg => busw 0 0 0x2B 0
  | .wr8Portcfg v => busw 1 0 0x2B (dataByte v)

/-! ### The operation map, transcribed, against which the decoder is checked -/

/-- The match and mask of an operation's row (R86); none for a bus transaction. -/
def opRow : Instr → Option (BitVec 16 × BitVec 16)
  | .init => some (0x0000, 0xFFFF)
  | .clksel => some (0x1000, 0xFFFF)
  | .portw => some (0x2000, 0xFFFF)
  | .ifen _ => some (0x3000, 0xFEFF)
  | .dirget _ => some (0x4000, 0xFF80)
  | .dirset _ _ => some (0x5000, 0xFE80)
  | .dirout _ _ => some (0x6000, 0xFE80)
  | .get _ => some (0x7000, 0xFF80)
  | .set _ _ => some (0x8000, 0xFE80)
  | .settype _ _ => some (0x9000, 0xF080)
  | .mask _ => some (0xA000, 0xFF80)
  | .unmask _ => some (0xB000, 0xFF80)
  | .ack _ => some (0xC000, 0xFF80)
  | .dispatch => some (0xD000, 0xFFFF)
  | .rd8Wdata _ => none
  | .wr8Wdata _ _ => none
  | .rd8Rdata _ => none
  | .wr8Rdata _ _ => none
  | .rd16Evcfg _ => none
  | .wr16Evcfg _ _ => none
  | .rd8Evsts _ => none
  | .wr8Evsts _ _ => none
  | .rd8Ctrl => none
  | .wr8Ctrl _ => none
  | .rd8Clkcfg => none
  | .wr8Clkcfg _ => none
  | .rd8Portcfg => none
  | .wr8Portcfg _ => none

/-- The match and mask of a bus transaction's row (R87); none for an operation. -/
def busRow : Instr → Option (BitVec 24 × BitVec 24)
  | .init => none
  | .clksel => none
  | .portw => none
  | .ifen _ => none
  | .dirget _ => none
  | .dirset _ _ => none
  | .dirout _ _ => none
  | .get _ => none
  | .set _ _ => none
  | .settype _ _ => none
  | .mask _ => none
  | .unmask _ => none
  | .ack _ => none
  | .dispatch => none
  | .rd8Wdata _ => some (0x000000, 0xF80000)
  | .wr8Wdata _ _ => some (0x800000, 0xF8FF00)
  | .rd8Rdata _ => some (0x080000, 0xF80000)
  | .wr8Rdata _ _ => some (0x880000, 0xF8FF00)
  | .rd16Evcfg _ => some (0x500000, 0xF10000)
  | .wr16Evcfg _ _ => some (0xD00000, 0xF10000)
  | .rd8Evsts _ => some (0x200000, 0xF80000)
  | .wr8Evsts _ _ => some (0xA00000, 0xF8FF00)
  | .rd8Ctrl => some (0x280000, 0xFF0000)
  | .wr8Ctrl _ => some (0xA80000, 0xFFFF00)
  | .rd8Clkcfg => some (0x2A0000, 0xFF0000)
  | .wr8Clkcfg _ => some (0xAA0000, 0xFFFF00)
  | .rd8Portcfg => some (0x2B0000, 0xFF0000)
  | .wr8Portcfg _ => some (0xAB0000, 0xFFFF00)

/-! ### The assembler syntax -/

/-- A level or an enable in the assembler syntax (R95). -/
def asmBit (b : Bool) : String := if b then "1" else "0"

/-- A direction in the assembler syntax (R95). -/
def Direction.asm : Direction → String
  | .output => "out"
  | .input => "in"

/-- A trigger type in the assembler syntax: its name, or a number (R74, R95). -/
def asmTrigger (t : BitVec 4) : String :=
  match t.toNat with
  | 0 => "none"
  | 1 => "rising"
  | 2 => "falling"
  | 3 => "both"
  | 4 => "high"
  | 8 => "low"
  | n => toString n

/-- A register of a bank in the assembler syntax (R95). -/
def asmBank (name : String) (b : Nat) : String := name ++ "[" ++ toString b ++ "]"

/-- An operation or bus transaction in the assembler syntax (R95), numbers in decimal. -/
def Instr.asm : Instr → String
  | .init => "INIT"
  | .clksel => "CLKSEL"
  | .portw => "PORTW"
  | .ifen en => "IFEN " ++ asmBit en
  | .dirget o => "DIRGET " ++ toString o
  | .dirset o d => "DIRSET " ++ toString o ++ ", " ++ d.asm
  | .dirout o v => "DIROUT " ++ toString o ++ ", " ++ asmBit v
  | .get o => "GET " ++ toString o
  | .set o v => "SET " ++ toString o ++ ", " ++ asmBit v
  | .settype l t => "SETTYPE " ++ toString l ++ ", " ++ asmTrigger t
  | .mask l => "MASK " ++ toString l
  | .unmask l => "UNMASK " ++ toString l
  | .ack l => "ACK " ++ toString l
  | .dispatch => "DISPATCH"
  | .rd8Wdata b => asmBank "RD8 WDATA" b
  | .wr8Wdata b v => asmBank "WR8 WDATA" b ++ ", " ++ toString v.toNat
  | .rd8Rdata b => asmBank "RD8 RDATA" b
  | .wr8Rdata b v => asmBank "WR8 RDATA" b ++ ", " ++ toString v.toNat
  | .rd16Evcfg b => asmBank "RD16 EVCFG" b
  | .wr16Evcfg b v => asmBank "WR16 EVCFG" b ++ ", " ++ toString v.toNat
  | .rd8Evsts b => asmBank "RD8 EVSTS" b
  | .wr8Evsts b v => asmBank "WR8 EVSTS" b ++ ", " ++ toString v.toNat
  | .rd8Ctrl => "RD8 CTRL"
  | .wr8Ctrl v => "WR8 CTRL, " ++ toString v.toNat
  | .rd8Clkcfg => "RD8 CLKCFG"
  | .wr8Clkcfg v => "WR8 CLKCFG, " ++ toString v.toNat
  | .rd8Portcfg => "RD8 PORTCFG"
  | .wr8Portcfg v => "WR8 PORTCFG, " ++ toString v.toNat

end Sys2Proof
end

