-- ==== Sys2Proof/Config.lean ====
section
/-! DEFINITION. What is fixed for one run: the parameters of 00_scope.md R7 and R8 (R38: not state), and the free values, which
nothing in Lean can evaluate. -/

namespace Sys2Proof

/-- One entry of the clock configuration table: a divisor and its 4-bit encoded value (R7, R131). -/
structure ClkEntry where
  div : Nat
  sel : BitVec 4
  deriving DecidableEq, Repr

/-- How UNMASK puts the stored code back into its slot (R8, D21). -/
inductive UnmaskMerge where
  | replace
  | or
  deriving DecidableEq, Repr

/-- Whether undescribed bits read back as written or as any value (R8, R28, D10). -/
inductive ReservedBits where
  | stored
  | draw
  deriving DecidableEq, Repr

/-- Which sampler the run has: the sampler of R190, or the weaker one of R194, which rests on the source alone. -/
inductive SamplerRule where
  | exact
  | weaker
  deriving DecidableEq, Repr

/-- The parameters of a run (R7, R8). An absent number models an unreadable property or a missing clock reference. -/
structure Params where
  /-- `BASE`, the address of the register window. -/
  base : Nat
  /-- `NOUT`, the count of output lines. -/
  nout : Option Nat
  /-- `NIN`, the count of input lines. -/
  nin : Option Nat
  /-- `REF_HZ`, the reference clock rate. -/
  refHz : Option Nat
  /-- `REQ_HZ`, the requested SGPIO bus frequency. -/
  reqHz : Option Nat
  /-- `CLKTAB`, the chip variant's clock configuration table. -/
  clktab : List ClkEntry
  /-- `RD_MODE_PERIODIC`, the value of CTRL bits 2:1 that means periodic sampling. -/
  rdModePeriodic : BitVec 2
  /-- `UNMASK_MERGE`. -/
  unmaskMerge : UnmaskMerge
  /-- `PORT_READBACK` on legal bytes, as the finite table of the bytes that do not read back as themselves. -/
  portReadback : List (Byte × Byte)
  /-- `NCTX`, the number of host contexts. -/
  nctx : Nat
  /-- `RESERVED_BITS`. -/
  reservedBits : ReservedBits
  /-- The sampler rule (R190, R194, D13). -/
  sampler : SamplerRule
  deriving DecidableEq, Repr

/-- The count of output lines as the line checks use it; an absent count has no line (entry 21). -/
def Params.noutN (p : Params) : Nat := p.nout.getD 0

/-- The count of input lines as the line checks use it; an absent count has no line (entry 21). -/
def Params.ninN (p : Params) : Nat := p.nin.getD 0

/-- What the spec asks of the parameters themselves: `BASE` even (R56), at least one context (R8), no divisor of 0 (R138). -/
def Params.legal (p : Params) : Bool :=
  p.base % 2 == 0 && decide (0 < p.nctx) && p.clktab.all (fun e => decide (0 < e.div))

/-- What an INIT has checked of the parameters when it succeeds (R139): the properties are present, both counts at most 64. -/
def Params.initChecked (p : Params) : Bool :=
  match p.nin, p.nout, p.reqHz, p.refHz with
  | some nin, some nout, some _, some _ => decide (nin ≤ 64) && decide (nout ≤ 64)
  | _, _, _, _ => false

/-- The table of chip variant `npcm750` (R131). -/
def npcm750 : List ClkEntry :=
  [⟨1024, 0x0⟩, ⟨32, 0x5⟩, ⟨8, 0x7⟩, ⟨4, 0xC⟩, ⟨3, 0xD⟩, ⟨2, 0xE⟩]

/-- The parameters `State.reset` names (DESIGN CHOICE, entry 2): the source's end-to-end scenario (95_test_vectors.md S1) with the
defaults of R8 and one host context. No statement rests on them. -/
def Params.scenario : Params :=
  { base := 0xF0101000, nout := some 8, nin := some 8, refHz := some 25000000, reqHz := some 50000, clktab := npcm750,
    rdModePeriodic := 0b10, unmaskMerge := .replace, portReadback := [], nctx := 1, reservedBits := .stored,
    sampler := .exact }

/-! ### Free values: nothing constrains them (entry 9) -/

/-- What the undescribed bits of `CTRL` and `CLKCFG` return on one read when `RESERVED_BITS = draw` (R28, U5). -/
opaque Config.freeReserved : Nat → Byte

/-- What one read of `PORTCFG` returns when a nibble written to it is 9 to 15 (R115, U8). -/
opaque Config.freePortRead : Nat → Byte

/-- What one step of the weaker sampler leaves in `RDATA`, all 64 positions (R194, U6). -/
opaque Config.freeSample : Nat → Lines

/-- Which status bits one step of the weaker sampler latches, among those whose slot is not `0b00` (R194, U6). -/
opaque Config.freeLatch : Nat → Lines

/-- The frequencies CLKSEL computes with when it is issued on its own and `REF_HZ`, or `REQ_HZ`, is absent (R132, R201; entry 11). -/
opaque Config.freeRefHz : Nat → Nat

/-- See `Config.freeRefHz`. -/
opaque Config.freeReqHz : Nat → Nat

/-- The line counts PORTW computes with when it is issued on its own and `NIN`, or `NOUT`, is absent (R134, R135, R201; entry 11). -/
opaque Config.freeNin : Nat → Nat

/-- See `Config.freeNin`. -/
opaque Config.freeNout : Nat → Nat

/-- The shift clock frequency for a `CLKCFG[3:0]` value that is not in the table in use (R113, U7). -/
opaque Config.freeShiftHz : BitVec 4 → Nat

end Sys2Proof
end

