-- ==== Sys2Proof/Machine/State.lean ====
section
/-! DEFINITION. The state of one block instance (10_state.md R20), the transient state of operations in progress (R43,
20_memory.md R61, R63), the host's side of the interface as plain data, and the state after reset (R40, R230). -/

namespace Sys2Proof.Machine

/-- The four register kinds of a bank (R93, R101): a closed type, so no fifth kind can be named. -/
inductive Kind where
  | wdata
  | rdata
  | evcfg
  | evsts
  deriving DecidableEq, Repr

/-- A register of the window: one of a bank, or one of the three global ones (R50, R100). -/
inductive Reg where
  | bank (k : Kind) (b : Nat)
  | ctrl
  | clkcfg
  | portcfg
  deriving DecidableEq, Repr

/-- The handling strategy tag of an input line (R30). -/
inductive Strategy where
  | unset
  | edge
  | level
  deriving DecidableEq, Repr

/-- The controller-wide lock (R31). -/
inductive Lock where
  | free
  | held (c : Nat)
  deriving DecidableEq, Repr

/-- Whether the device has been brought up (R32). -/
inductive DevState where
  | down
  | up
  deriving DecidableEq, Repr

/-- The errors an operation can end with (R201). -/
inductive Err where
  | lineCountExceedsMax
  | propertyUnreadable
  | dividerTableExhausted
  | portWidthReadbackMismatch
  | clockReferenceMissing
  | unsupportedTriggerType
  | directionMismatch
  | badRegisterKind
  deriving DecidableEq, Repr

/-- What an operation or transaction hands back to its caller (R13): ok, a value, or an error (R201, R213). -/
inductive Result where
  | ok
  | value (v : Half)
  | error (e : Err)
  deriving DecidableEq, Repr

/-- The outputs of the block towards the host. `c` is the context concerned. -/
inductive Event where
  /-- A bus read of register `r` returned `v` (R13, R57). -/
  | read (c : Nat) (r : Reg) (v : Half)
  /-- A bus write of `v` to register `r` (R13, R57). -/
  | write (c : Nat) (r : Reg) (v : Half)
  /-- The dispatcher handed virtual line `n` to the host (R193). -/
  | deliver (c : Nat) (n : Nat)
  /-- An operation ended and handed `r` to its caller (R13, R213). -/
  | done (c : Nat) (r : Result)
  deriving DecidableEq, Repr

/-- How a written value is computed from the value the operation read last (`old`, `w`, `r`, `v` of the pseudocode). -/
inductive Update where
  /-- The value itself (R103 to R115, R135, R172). -/
  | const (v : Half)
  /-- Bit `k` set or cleared (R154). -/
  | setBit (k : Nat) (v : Bool)
  /-- Bits 3:0 replaced by a divider encoding (R133). -/
  | clkSel (sel : BitVec 4)
  /-- The new `CTRL` value of `IFEN en` (R136). -/
  | ifen (en : Bool)
  /-- Code `c` ORed into slot `k` (R167). -/
  | orSlot (k : Nat) (c : Code)
  /-- Slot `k` cleared (R170). -/
  | clearSlot (k : Nat)
  /-- Slot `k` restored from `TYPE[i]` (R171). -/
  | restoreSlot (k : Nat) (i : Nat)
  deriving DecidableEq, Repr

/-- One step of an operation's pseudocode: a bus transaction, a change of shadow or synchronisation state, or a check. -/
inductive Micro where
  /-- Take the controller-wide lock, waiting while it is held (R61). -/
  | acquire
  /-- Release the lock (R61). -/
  | release
  /-- `TYPE[i] <- c` (R167). -/
  | setType (i : Nat) (c : Code)
  /-- `STRAT[i] <- s` (R167). -/
  | setStrat (i : Nat) (s : Strategy)
  /-- A bus read whose value is kept for the following steps (R13). -/
  | read (r : Reg)
  /-- A bus write of a value computed from the value kept (R13). -/
  | write (r : Reg) (u : Update)
  /-- Compare the value kept with the byte written (R135). -/
  | check (v : Byte)
  /-- `DEVSTATE <- UP` (R139). -/
  | bringUp
  /-- Examine bit `k` of the snapshot of bank `b`, delivering its line if it is set (R43, R186). -/
  | scan (b : Nat) (k : Nat)
  deriving DecidableEq, Repr

/-- What an operation hands back when its last step is done. -/
inductive Return where
  /-- `return`, that is ok (R13). -/
  | ok
  /-- The value read last (R102 to R114). -/
  | latch
  /-- Bit `k` of the value read last (R153). -/
  | bit (k : Nat)
  /-- A constant (R150). -/
  | const (v : Half)
  deriving DecidableEq, Repr

/-- An operation in progress in a context (R43, R61, R63, R193). For a DISPATCH the scan position `(sb, sk)` is that of the first step of
`todo`, which stays there while the handler of its line runs, and the snapshot `snap` is `latch` (R43). -/
structure Frame where
  /-- The value the operation read last. -/
  latch : Half
  /-- The steps it still has to do; while a handler runs, the first is the examination of the bit that called it. -/
  todo : List Micro
  /-- What it hands back at its end. -/
  ret : Return
  /-- A line handler it called is running, and the operation waits for its return (R193). -/
  inHandler : Bool
  deriving DecidableEq, Repr

/-- What the host does next in a context. -/
inductive Request where
  /-- Issue an operation or a bus transaction (R185). -/
  | issue (w : HostWord)
  /-- Accept the parent interrupt: run its handler, one DISPATCH (R189, R212). -/
  | interrupt
  /-- The line handler that the dispatcher called returns (R193). -/
  | handlerReturn
  deriving DecidableEq, Repr

/-- A host context (R185, R220): what it will do, and its operations in progress, innermost first. -/
structure Ctx where
  requests : List Request
  stack : List Frame
  deriving DecidableEq, Repr

/-- The agent that takes a step (R185). -/
inductive Agent where
  | ctx (c : Nat)
  /-- The sampler, with the input levels of that moment (R34, R190). -/
  | sampler (inp : Lines)
  deriving DecidableEq, Repr

/-- What happens between two steps of the operation being run (R63). -/
inductive Turn where
  /-- Context `c` takes one step of its innermost operation in progress; the running context's own turn lets it go on. -/
  | ctx (c : Nat)
  /-- The sampler takes a step (R190). -/
  | sampler (inp : Lines)
  /-- The running operation is set aside, in progress. -/
  | preempt
  deriving DecidableEq, Repr

/-- A record in `FAULT` (R37, R203): the one programming-logic fault there is. -/
inductive FaultRecord where
  | badRegisterKind
  deriving DecidableEq, Repr

/-- The reasons a step stops with a fault. -/
inductive Fault where
  /-- `step` raises it when `FAULT` is not empty: a programming-logic fault is fatal, not a recoverable error (R101, R203).
  Safe: the model stops where the spec says no good state follows. -/
  | logicFault
  deriving DecidableEq, Repr

/-- The reasons a request has no meaning (R204): "a model … proves nothing of a run that contains one". Each is safe: the model
stops where the spec gives no meaning. -/
inductive Refusal where
  /-- Raised by `exec` for an instruction that has no meaning yet. Safe. No arm of this model raises it. -/
  | notModelled (mnemonic : String)
  /-- Raised by `step` for a reserved operation word (R90, U3). Safe. -/
  | reservedWord
  /-- Raised by `step` for an undefined bus transaction (R91, U4). Safe. -/
  | undefinedTransaction
  /-- Raised by an operation whose line is at or above `NOUT + NIN` (R155, R165, U1). Safe. -/
  | lineOutOfRange
  /-- Raised by SETTYPE, MASK, UNMASK or ACK on an output line (R165, U2). Safe. -/
  | outputLine
  /-- Raised by a line, interrupt-chip or dispatch operation while `DEVSTATE = DOWN` (R32, U10). Safe. -/
  | deviceDown
  /-- Raised by INIT while `DEVSTATE = UP` (R139, U11). Safe. -/
  | initTwice
  /-- Raised by CLKSEL or INIT when `CLKTAB` holds a divisor of 0 (R138, U12). Safe. -/
  | zeroDivisor
  deriving DecidableEq, Repr

/-- The state: the registers and shadow state of R20, the operations in progress, the host's side, the parameters. -/
structure State where
  /-- The parameters of the run, which no step writes (R7, R8, R38; entry 1). -/
  params : Params
  /-- `WDATA[0..7]` (R21). -/
  wdata : Vector Byte 8
  /-- `RDATA[0..7]` (R22). -/
  rdata : Vector Byte 8
  /-- `EVCFG[0..7]` (R23). -/
  evcfg : Vector Half 8
  /-- `EVSTS[0..7]` (R24). -/
  evsts : Vector Byte 8
  /-- `CTRL` (R25). -/
  ctrl : Byte
  /-- `CLKCFG` (R26). -/
  clkcfg : Byte
  /-- `PORTCFG`, as last written (R27). -/
  portcfg : Byte
  /-- Whether `PORTCFG` has been written since reset (R114; the model's own, entry 10). -/
  portWritten : Bool
  /-- `TYPE[0..63]` (R29). -/
  trigType : Vector Code 64
  /-- `STRAT[0..63]` (R30). -/
  strat : Vector Strategy 64
  /-- `LOCK` (R31). -/
  lock : Lock
  /-- `DEVSTATE` (R32). -/
  devstate : DevState
  /-- `FAULT`, a set kept without repeats (R37). -/
  fault : List FaultRecord
  /-- The host contexts (R185). -/
  ctxs : List Ctx
  /-- The context that issues the operation being run. -/
  cur : Nat
  /-- Which agent takes each coming step; when it is empty, context `cur` does (entry 5). -/
  agenda : List Agent
  /-- What happens inside the operation being run; when it is empty, nothing does (entry 6). -/
  turns : List Turn
  /-- The outputs so far, oldest first (entry 14). -/
  trace : List Event
  /-- How many free values have been used (entry 9). -/
  draws : Nat
  deriving DecidableEq, Repr

/-- The registers whose reset value is a draw (R40, R230): every value of the width is possible. -/
structure ResetDraw where
  wdata : Vector Byte 8
  rdata : Vector Byte 8
  evsts : Vector Byte 8
  ctrl : Byte
  clkcfg : Byte
  portcfg : Byte
  deriving DecidableEq, Repr

/-- The draw `State.reset` names: zero everywhere (DESIGN CHOICE, entry 3). -/
def ResetDraw.zero : ResetDraw :=
  { wdata := Vector.replicate 8 0, rdata := Vector.replicate 8 0, evsts := Vector.replicate 8 0,
    ctrl := 0, clkcfg := 0, portcfg := 0 }

/-- The state after reset for given parameters and a given draw (R40, R230), with nothing requested of the block yet. -/
def State.resetWith (p : Params) (d : ResetDraw) : State :=
  { params := p
    wdata := d.wdata, rdata := d.rdata, evcfg := Vector.replicate 8 0, evsts := d.evsts
    ctrl := d.ctrl, clkcfg := d.clkcfg, portcfg := d.portcfg, portWritten := false
    trigType := Vector.replicate 64 0, strat := Vector.replicate 64 .unset
    lock := .free, devstate := .down, fault := []
    ctxs := List.replicate p.nctx ⟨[], []⟩
    cur := 0, agenda := [], turns := [], trace := [], draws := 0 }

/-- The machine right after reset (R40, R230), with the parameters of entry 2 and the draw of entry 3. -/
def State.reset : State := State.resetWith Params.scenario ResetDraw.zero

end Sys2Proof.Machine
end

