-- ==== Sys2Proof/Machine/Operands.lean ====
section
/-! DEFINITION. Operands and assembled values: access to a bank's entry, the Line Index Mapper (41_line_mapper.md), the slot and
status-bit functions (30_encoding.md R75, R76), the trigger-type mapping (R166), the clock divider selection (R132), the
port-width byte (R134), and the values the read-modify-writes store (R133, R136, R154, R167, R170, R171). -/

namespace Sys2Proof.Machine

/-! ### Entries of a register array -/

/-- Entry `i` of an array of registers, 0 past its end. -/
def entry {n w : Nat} (v : Vector (BitVec w) n) (i : Nat) : BitVec w := (v[i]?).getD 0

/-- The array with entry `i` replaced; past its end nothing changes. -/
def putEntry {α : Type} {n : Nat} (v : Vector α n) (i : Nat) (x : α) : Vector α n := v.setIfInBounds i x

/-- `STRAT[i]` of a table, `UNSET` past its end. -/
def stratEntry {n : Nat} (v : Vector Strategy n) (i : Nat) : Strategy := (v[i]?).getD .unset

/-- The eight entries of a bank array, by bank number. -/
def perBank {α : Type} (f : Nat → α) : Vector α 8 := #v[f 0, f 1, f 2, f 3, f 4, f 5, f 6, f 7]

/-- The byte whose bit `k` is `f k`. -/
def byteOfBits (f : Nat → Bool) : Byte := BitVec.ofBoolListLE [f 0, f 1, f 2, f 3, f 4, f 5, f 6, f 7]

/-- The byte of bank `b` in a vector of 64 levels: position `8*b + k` is bit `k` (R14, R34). -/
def byteOfLines (x : Lines) (b : Nat) : Byte := x.extractLsb' (8 * b) 8

/-! ### The Line Index Mapper -/

/-- The bank of a position (R120). -/
def bankOf (p : Nat) : Nat := p / 8

/-- The bit of a position (R120). -/
def bitOf (p : Nat) : Nat := p % 8

/-- An output line: offset below `NOUT` (R121). -/
def isOutput (p : Params) (o : Nat) : Bool := decide (o < p.noutN)

/-- An input line: offset at or above `NOUT` and below `NOUT + NIN` (R121). -/
def isInput (p : Params) (o : Nat) : Bool := decide (p.noutN ≤ o ∧ o < p.noutN + p.ninN)

/-- The input-relative offset of an input line (R123). -/
def rel (p : Params) (l : Nat) : Nat := l - p.noutN

/-- Bank and bit of an output line (R124). -/
def outCoord (o : Nat) : Nat × Nat := (bankOf o, bitOf o)

/-- Bank and bit of an input line (R124). -/
def inCoord (p : Params) (l : Nat) : Nat × Nat := (bankOf (rel p l), bitOf (rel p l))

/-- What a line offset may be used for (R125). -/
inductive LineUse where
  | outputUse
  | inputUse
  | invalid
  deriving DecidableEq, Repr

/-- The valid-line function, the pseudo-operation VALID (R96, R125). -/
def validLine (p : Params) (o : Nat) : LineUse :=
  if isOutput p o then .outputUse else if isInput p o then .inputUse else .invalid

/-- The virtual line number of bank `b`, bit `k` (R126, R187). -/
def vline (p : Params) (b k : Nat) : Nat := b * 8 + p.noutN + k

/-! ### Slots, status bits, trigger types -/

/-- The two bits of slot `k` (R75). -/
def slotMask (k : Nat) : Half := (0b11 : Half) <<< (2 * k)

/-- Code `c` placed in slot `k`, zero elsewhere (R75). -/
def slotIns (c : Code) (k : Nat) : Half := c.setWidth 16 <<< (2 * k)

/-- The code in slot `k` (R75). -/
def slotGet (w : Half) (k : Nat) : Code := (w >>> (2 * k)).setWidth 2

/-- The status or data bit of bit position `k` (R11, R76). -/
def bitMask (k : Nat) : Byte := (1 : Byte) <<< k

/-- The stored code and the strategy of a requested trigger type; `none` for an unsupported one (R74, R166). -/
def triggerOf (t : BitVec 4) : Option (Code × Strategy) :=
  if t = 0b0001 then some (0b01, .edge)
  else if t = 0b0010 then some (0b10, .edge)
  else if t = 0b0011 then some (0b11, .edge)
  else if t = 0b0100 then some (0b01, .level)
  else if t = 0b1000 then some (0b10, .level)
  else none

/-! ### Values assembled at initialisation -/

/-- The number of 8-line groups that hold `n` lines (R11). -/
def ceil8 (n : Nat) : Nat := (n + 7) / 8

/-- `IN_PORTS` (R33, R134). -/
def inPorts (p : Params) : Nat := ceil8 p.ninN

/-- `OUT_PORTS` (R33, R134). -/
def outPorts (p : Params) : Nat := ceil8 p.noutN

/-- The port-width byte of the two port counts (R134); its arithmetic is 8 bits wide (entry 19). -/
def portByteOf (inputs outputs : Nat) : Byte := (BitVec.ofNat 8 outputs <<< 4) ||| BitVec.ofNat 8 inputs

/-- The port-width byte (R134). -/
def portByte (p : Params) : Byte := portByteOf (inPorts p) (outPorts p)

/-- The port-width byte PORTW writes: of the counts, an absent one being a free value (R135; entry 11). -/
def portByteRead (s : State) : Byte :=
  portByteOf (ceil8 (s.params.nin.getD (Config.freeNin s.draws))) (ceil8 (s.params.nout.getD (Config.freeNout s.draws)))

/-- PORTW uses a free value: a line count is absent (entry 11). -/
def portwDraws (p : Params) : Bool := p.nin.isNone || p.nout.isNone

/-- The walk of the Clock Divider Selector from one entry on; `prev` is the encoding of the entry before it, absent at index 0
(R132). The first overshoot at an index above 0 selects the previous entry; a request above the last candidate selects the last. -/
def selectFrom (ref req : Nat) (prev : Option (BitVec 4)) : List ClkEntry → Option (BitVec 4)
  | [] => none
  | e :: rest =>
    let cand := ref / e.div
    match prev, decide (cand > req) with
    | some sel, true => some sel
    | _, _ => if rest.isEmpty && decide (req > cand) then some e.sel else selectFrom ref req (some e.sel) rest

/-- The encoding the Clock Divider Selector finds; `none` when the table is exhausted (R132, R137). -/
def selectDivider (ref req : Nat) (tab : List ClkEntry) : Option (BitVec 4) := selectFrom ref req none tab

/-- `REF_HZ` as CLKSEL reads it: a free value where it is absent (R132; entry 11). -/
def refHzRead (s : State) : Nat := s.params.refHz.getD (Config.freeRefHz s.draws)

/-- `REQ_HZ` as CLKSEL reads it: a free value where it is absent (R132; entry 11). -/
def reqHzRead (s : State) : Nat := s.params.reqHz.getD (Config.freeReqHz s.draws)

/-- The encoding CLKSEL finds (R132); `none` when the table is exhausted. -/
def clkselChoice (s : State) : Option (BitVec 4) := selectDivider (refHzRead s) (reqHzRead s) s.params.clktab

/-- CLKSEL uses a free value: a frequency is absent (entry 11). -/
def clkselDraws (p : Params) : Bool := p.refHz.isNone || p.reqHz.isNone

/-- A table with a divisor of 0 is not a legal value of `CLKTAB` (R138, U12). -/
def hasZeroDivisor (tab : List ClkEntry) : Bool := tab.any (fun e => decide (e.div = 0))

/-- The shift clock frequency (R130, R222): `REF_HZ div div_j` for the table entry whose encoding `CLKCFG[3:0]` holds, a free value
when there is none or no reference clock (U7; entry 18). -/
def shiftClockHz (p : Params) (clkcfg : Byte) : Nat :=
  let sel : BitVec 4 := clkcfg.setWidth 4
  match p.refHz, p.clktab.find? (fun e => decide (e.sel = sel)) with
  | some ref, some e => ref / e.div
  | _, _ => Config.freeShiftHz sel

/-! ### Values the read-modify-writes store -/

/-- The `CLKCFG` value CLKSEL writes: bits 3:0 replaced, bits 7:4 kept (R133). -/
def clkValue (old : Byte) (sel : BitVec 4) : Byte := (old &&& 0xF0) ||| sel.setWidth 8

/-- The `CTRL` value `IFEN en` writes: bits 2:1 periodic, bit 7 the enable, the others kept (R136). -/
def ifenValue (mode : BitVec 2) (en : Bool) (v : Byte) : Byte :=
  let w := (v &&& ~~~(0x06 : Byte)) ||| (mode.setWidth 8 <<< 1)
  if en then w ||| 0x80 else w &&& 0x7F

/-- The data byte SET and DIROUT write: bit `k` set or cleared (R154). -/
def setBitValue (r : Byte) (k : Nat) (v : Bool) : Byte := if v then r ||| bitMask k else r &&& ~~~(bitMask k)

/-- The event-config word SETTYPE writes: the code is ORed in (R167). -/
def orSlotValue (w : Half) (k : Nat) (c : Code) : Half := w ||| slotIns c k

/-- The event-config word MASK writes (R170). -/
def clearSlotValue (w : Half) (k : Nat) : Half := w &&& ~~~(slotMask k)

/-- The event-config word UNMASK writes: the slot replaced by, or ORed with, the stored code (R171, D21). -/
def restoreSlotValue (m : UnmaskMerge) (w : Half) (k : Nat) (c : Code) : Half :=
  match m with
  | .replace => (w &&& ~~~(slotMask k)) ||| slotIns c k
  | .or => w ||| slotIns c k

/-- The value an update writes, from the value read last and the state at the write. -/
def Update.eval (u : Update) (latch : Half) (s : State) : Half :=
  match u with
  | .const v => v
  | .setBit k v => (setBitValue (latch.setWidth 8) k v).setWidth 16
  | .clkSel sel => (clkValue (latch.setWidth 8) sel).setWidth 16
  | .ifen en => (ifenValue s.params.rdModePeriodic en (latch.setWidth 8)).setWidth 16
  | .orSlot k c => orSlotValue latch k c
  | .clearSlot k => clearSlotValue latch k
  | .restoreSlot k i => restoreSlotValue s.params.unmaskMerge latch k (entry s.trigType i)

/-- The value an operation hands back, from the value it read last (R13, R153). -/
def Return.eval (r : Return) (latch : Half) : Result :=
  match r with
  | .ok => .ok
  | .latch => .value latch
  | .bit k => .value (if latch.getLsbD k then 1 else 0)
  | .const v => .value v

/-- The code of an error (R201). -/
def Err.code : Err → Nat
  | .lineCountExceedsMax => 1
  | .propertyUnreadable => 2
  | .dividerTableExhausted => 3
  | .portWidthReadbackMismatch => 4
  | .clockReferenceMissing => 5
  | .unsupportedTriggerType => 6
  | .directionMismatch => 7
  | .badRegisterKind => 8

/-- The classes of errors (R200, R201). -/
inductive ErrClass where
  | configError
  | invalidArgument
  | logicFault
  deriving DecidableEq, Repr

/-- The class of an error (R200, R201, C9). -/
def Err.errClass : Err → ErrClass
  | .lineCountExceedsMax => .configError
  | .propertyUnreadable => .configError
  | .dividerTableExhausted => .configError
  | .portWidthReadbackMismatch => .configError
  | .clockReferenceMissing => .configError
  | .unsupportedTriggerType => .invalidArgument
  | .directionMismatch => .invalidArgument
  | .badRegisterKind => .logicFault

end Sys2Proof.Machine
end

