-- ==== Sys2Proof/Machine/Flags.lean ====
section
/-! DEFINITION. The block's flags, the 64 pending bits of EVSTS (10_state.md R24): how a write clears them (R109), how the sampler
sets them (45_dispatcher.md R190, R194), and the pins computed from the state (R34). -/

namespace Sys2Proof.Machine

/-- A write-1-to-clear write: every bit that is 1 in `v` is cleared, none is set (R24, R109). -/
def clearWritten (sts v : Byte) : Byte := sts &&& ~~~v

/-- Whether a transition of one position latches its status bit: a rise with slot bit 0 set, or a fall with slot bit 1 set (R23, R190). -/
def latches (slot : Code) (old new : Bool) : Bool :=
  (!old && new && slot.getLsbD 0) || (old && !new && slot.getLsbD 1)

/-- The status byte of a bank after a sampler step: bits latched are added, none is cleared (R190, R191). -/
def latchByte (cfg : Half) (old new sts : Byte) : Byte :=
  byteOfBits fun k => sts.getLsbD k || latches (slotGet cfg k) (old.getLsbD k) (new.getLsbD k)

/-- The bits of a bank whose slot is not `0b00` (R35, R194). -/
def unmaskedBits (cfg : Half) : Byte := byteOfBits fun k => decide (slotGet cfg k ≠ 0)

/-- The sampler is enabled: `CTRL[7] = 1` (R25, R190). -/
def samplerEnabled (s : State) : Bool := s.ctrl.getLsbD 7

/-- The sampling-mode field `CTRL[2:1]` (R25). -/
def samplingMode (s : State) : BitVec 2 := s.ctrl.extractLsb' 1 2

/-- The sampler that is in force: R190 while the mode field holds the periodic value, otherwise the weaker one (R191, R194, U6). -/
def samplerInForce (s : State) : SamplerRule :=
  if samplingMode s = s.params.rdModePeriodic then s.params.sampler else .weaker

/-- One step of the sampler of R190: every position compared with its previous sample, then sampled, all at once. -/
def sampleExact (inp : Lines) (s : State) : State :=
  { s with
    evsts := perBank fun b => latchByte (entry s.evcfg b) (entry s.rdata b) (byteOfLines inp b) (entry s.evsts b)
    rdata := perBank fun b => byteOfLines inp b }

/-- One step of the weaker sampler of R194: `RDATA` becomes any value, and any status bit whose slot is not `0b00` may be set. -/
def sampleWeaker (s : State) : State :=
  { s with
    evsts := perBank fun b =>
      entry s.evsts b ||| (byteOfLines (Config.freeLatch s.draws) b &&& unmaskedBits (entry s.evcfg b))
    rdata := perBank fun b => byteOfLines (Config.freeSample s.draws) b
    draws := s.draws + 1 }

/-- The hardware's own step SAMPLE with input levels `inp`; it takes no step while the interface is disabled (R190, R194, U6). -/
def sample (inp : Lines) (s : State) : State :=
  if samplerEnabled s then
    match samplerInForce s with
    | .exact => sampleExact inp s
    | .weaker => sampleWeaker s
  else s

/-- The parent interrupt line: 1 exactly when some bit of some `EVSTS[b]` is 1 (R34, R209). -/
def irq (s : State) : Bool := s.evsts.toList.any (fun v => decide (v ≠ 0))

/-- The level driven on output position `p` (R34). -/
def outPin (s : State) (p : Nat) : Bool := (entry s.wdata (bankOf p)).getLsbD (bitOf p)

/-- The pending flag of input position `p` (R24). -/
def pending (s : State) (p : Nat) : Bool := (entry s.evsts (bankOf p)).getLsbD (bitOf p)

/-- The slot of input position `p` (R35). -/
def slotAt (s : State) (p : Nat) : Code := slotGet (entry s.evcfg (bankOf p)) (bitOf p)

/-- Input position `p` is masked: its slot is `0b00` (R35). -/
def masked (s : State) (p : Nat) : Bool := decide (slotAt s p = 0)

end Sys2Proof.Machine
end

