-- ==== Sys2Proof/Machine/Ops.lean ====
section
/-! DEFINITION. The shared operations: the Register Accessor and the bus transactions (40_register_access.md R100, R101, R116), the
output events, raising an error (60_exceptions.md R200 to R203, R213), one step of an operation, and running an operation while other
agents move between its steps (20_memory.md R61, R63; 45_dispatcher.md R193). -/

namespace Sys2Proof.Machine

/-! ### The Register Accessor -/

/-- The byte offset of a register of a bank, by kind (R51, R100). -/
def kindOffset (k : Kind) (b : Nat) : Nat :=
  match k with
  | .wdata => 0x00 + b
  | .rdata => 0x08 + b
  | .evcfg => 0x10 + 2 * b
  | .evsts => 0x20 + b

/-- The byte offset of a register from `BASE`; none for a bank index of 8 or more, which the accessor faults (R100, R101, D28). -/
def regOffset (r : Reg) : Option Nat :=
  match r with
  | .bank k b => if b < 8 then some (kindOffset k b) else none
  | .ctrl => some 0x28
  | .clkcfg => some 0x2A
  | .portcfg => some 0x2B

/-- The Register Accessor: the absolute address of a register (R100, R101). -/
def addr (p : Params) (r : Reg) : Option Nat := (regOffset r).map (fun off => p.base + off)

/-- The one width of a register, in bytes (R54). -/
def regBytes (r : Reg) : Nat :=
  match r with
  | .bank .evcfg _ => 2
  | _ => 1

/-- The register that stands at offset `off` with width `n` bytes; none where a transaction is refused (R50, R54, R56, R91, R116). -/
def regAt (off n : Nat) : Option Reg :=
  if n = 1 then
    if off < 0x08 then some (.bank .wdata off)
    else if off < 0x10 then some (.bank .rdata (off - 0x08))
    else if off < 0x20 then none
    else if off < 0x28 then some (.bank .evsts (off - 0x20))
    else if off = 0x28 then some .ctrl
    else if off = 0x2A then some .clkcfg
    else if off = 0x2B then some .portcfg
    else none
  else if n = 2 then
    if 0x10 ≤ off ∧ off < 0x20 ∧ off % 2 = 0 then some (.bank .evcfg ((off - 0x10) / 2)) else none
  else none

/-! ### Output events -/

/-- Record an output of the block (R13). -/
def emit (e : Event) (s : State) : State := { s with trace := s.trace ++ [e] }

/-- An operation ends and hands its result to its caller (R13, R213). -/
def finish (c : Nat) (r : Result) (s : State) : State := emit (.done c r) s

/-- The programming-logic fault of the accessor: recorded in `FAULT`, and the operation ends with that outcome (R13, R101, R203). -/
def raiseLogicFault (c : Nat) (s : State) : State :=
  finish c (.error .badRegisterKind)
    { s with fault := if s.fault.contains .badRegisterKind then s.fault else s.fault ++ [.badRegisterKind] }

/-- The counter of free values after some were used, if any were (entry 9). -/
def useDraw (used : Bool) (s : State) : State := { s with draws := if used then s.draws + 1 else s.draws }

/-! ### Bus transactions -/

/-- What one read of a register with undescribed bits returns: they read back as written, or as a free value (R28, D10). `described`
holds a 1 for every bit the spec describes. -/
def seenReserved (p : Params) (n : Nat) (described v : Byte) : Byte :=
  match p.reservedBits with
  | .stored => v
  | .draw => (v &&& described) ||| (Config.freeReserved n &&& ~~~described)

/-- The bits of `CTRL` the spec describes: 7 and 2:1 (R25, R28). -/
def ctrlDescribed : Byte := 0x86

/-- The bits of `CLKCFG` the spec describes: 5:0 (R26, R28). -/
def clkcfgDescribed : Byte := 0x3F

/-- Both nibbles of a `PORTCFG` value are legal, 0 to 8 (R27). -/
def portLegal (v : Byte) : Bool := decide ((v.extractLsb' 0 4).toNat ≤ 8 ∧ (v.extractLsb' 4 4).toNat ≤ 8)

/-- `PORT_READBACK` of a legal byte (R8, R27, D30). -/
def portReadback (p : Params) (v : Byte) : Byte :=
  match p.portReadback.find? (fun e => decide (e.1 = v)) with
  | some e => e.2
  | none => v

/-- What a read of `PORTCFG` returns (R114, R115, U8): before any write the reset value, after a write of a legal byte
`PORT_READBACK` of it, after a write of any other byte a free value. -/
def seenPort (s : State) : Byte :=
  if s.portWritten then
    if portLegal s.portcfg then portReadback s.params s.portcfg else Config.freePortRead s.draws
  else s.portcfg

/-- The value a read of a register returns (R102, R104, R106, R108, R110, R112, R114). -/
def readValue (r : Reg) (s : State) : Half :=
  match r with
  | .bank .wdata b => (entry s.wdata b).setWidth 16
  | .bank .rdata b => (entry s.rdata b).setWidth 16
  | .bank .evcfg b => entry s.evcfg b
  | .bank .evsts b => (entry s.evsts b).setWidth 16
  | .ctrl => (seenReserved s.params s.draws ctrlDescribed s.ctrl).setWidth 16
  | .clkcfg => (seenReserved s.params s.draws clkcfgDescribed s.clkcfg).setWidth 16
  | .portcfg => (seenPort s).setWidth 16

/-- Whether a read of a register uses a free value (R28, R115). -/
def readDraws (r : Reg) (s : State) : Bool :=
  match r with
  | .bank _ _ => false
  | .ctrl => decide (s.params.reservedBits = .draw)
  | .clkcfg => decide (s.params.reservedBits = .draw)
  | .portcfg => s.portWritten && !portLegal s.portcfg

/-- The state after a bus read by context `c`: no register changes (R58, R116); the read is an output. -/
def afterRead (c : Nat) (r : Reg) (s : State) : State :=
  { s with
    draws := if readDraws r s then s.draws + 1 else s.draws
    trace := s.trace ++ [.read c r (readValue r s)] }

/-- What a write of `v` to a register changes (R103, R105, R107, R109, R111, R113, R115). -/
def storeReg (r : Reg) (v : Half) (s : State) : State :=
  match r with
  | .bank .wdata b => { s with wdata := putEntry s.wdata b (v.setWidth 8) }
  | .bank .rdata _ => s
  | .bank .evcfg b => { s with evcfg := putEntry s.evcfg b v }
  | .bank .evsts b => { s with evsts := putEntry s.evsts b (clearWritten (entry s.evsts b) (v.setWidth 8)) }
  | .ctrl => { s with ctrl := v.setWidth 8 }
  | .clkcfg => { s with clkcfg := v.setWidth 8 }
  | .portcfg => { s with portcfg := v.setWidth 8, portWritten := true }

/-- The state after a bus write by context `c` (R57, R58, R116); the write is an output. -/
def afterWrite (c : Nat) (r : Reg) (v : Half) (s : State) : State := emit (.write c r v) (storeReg r v s)

/-! ### One step of an operation -/

/-- How an operation goes on after one of its steps. -/
inductive Flow where
  /-- It goes on, with this value kept. -/
  | more (latch : Half) (s : State)
  /-- It has ended early, with an error (R13). -/
  | ended (s : State)
  /-- It has called a line handler and waits for its return, at the bit being examined (R43, R193). -/
  | calls (s : State)
  /-- It waits for the lock; nothing happened (R61). -/
  | waits

/-- One step of an operation of context `c` whose last read returned `latch`. -/
def Micro.run (m : Micro) (c : Nat) (latch : Half) (s : State) : Flow :=
  match m with
  | .acquire => if s.lock = .free then .more latch { s with lock := .held c } else .waits
  | .release => .more latch { s with lock := .free }
  | .setType i code => .more latch { s with trigType := putEntry s.trigType i code }
  | .setStrat i st => .more latch { s with strat := putEntry s.strat i st }
  | .read r =>
    if (regOffset r).isSome then .more (readValue r s) (afterRead c r s) else .ended (raiseLogicFault c s)
  | .write r u =>
    if (regOffset r).isSome then .more latch (afterWrite c r (u.eval latch s) s) else .ended (raiseLogicFault c s)
  | .check v =>
    if latch = v.setWidth 16 then .more latch s else .ended (finish c (.error .portWidthReadbackMismatch) s)
  | .bringUp => .more latch { s with devstate := .up }
  | .scan b k => if latch.getLsbD k then .calls (emit (.deliver c (vline s.params b k)) s) else .more latch s

/-- A step that waits in this state: taking a lock that is held (R61). -/
def Micro.blocked (m : Micro) (s : State) : Bool := decide (m = .acquire ∧ s.lock ≠ .free)

/-- A step that touches state other agents can see: only before such a step can another agent's move matter (R57, R63). -/
def Micro.shared (m : Micro) : Bool :=
  match m with
  | .check _ => false
  | .scan _ _ => false
  | _ => true

/-! ### Contexts -/

/-- Context `c`; a context that does not exist has nothing to do (entry 20). -/
def ctxAt (s : State) (c : Nat) : Ctx := (s.ctxs[c]?).getD ⟨[], []⟩

/-- Replace the operations in progress in context `c`. -/
def setStack (c : Nat) (st : List Frame) (s : State) : State :=
  { s with ctxs := s.ctxs.set c { (ctxAt s c) with stack := st } }

/-- Replace what context `c` does next. -/
def setRequests (c : Nat) (rs : List Request) (s : State) : State :=
  { s with ctxs := s.ctxs.set c { (ctxAt s c) with requests := rs } }

/-- Leave an operation in progress in context `c`. -/
def pushFrame (c : Nat) (f : Frame) (s : State) : State := setStack c (f :: (ctxAt s c).stack) s

/-- Context `c` takes one step of its innermost operation in progress, unless a handler of it is running or it waits (R63). -/
def contextStep (c : Nat) (s : State) : State :=
  match (ctxAt s c).stack with
  | [] => s
  | f :: below =>
    if f.inHandler then s
    else
      match f.todo with
      | [] => finish c (f.ret.eval f.latch) (setStack c below s)
      | m :: rest =>
        match m.run c f.latch s with
        | .more latch s' =>
          if rest.isEmpty then finish c (f.ret.eval latch) (setStack c below s')
          else setStack c ({ f with latch := latch, todo := rest } :: below) s'
        | .ended s' => setStack c below s'
        | .calls s' => setStack c ({ f with inHandler := true } :: below) s'
        | .waits => s

/-- What the other agents do before the next step `m` of the operation that context `c` is running, and whether it then takes that
step (R61, R63): it does when its turn comes or no turn is left, unless it waits for the lock; it does not when it is set aside. -/
def interleave (c : Nat) (m : Micro) : List Turn → State → State × Bool
  | [], s => ({ s with turns := [] }, !m.blocked s)
  | .preempt :: ts, s => ({ s with turns := ts }, false)
  | .sampler inp :: ts, s => interleave c m ts (sample inp s)
  | .ctx d :: ts, s =>
    if d = c then
      if m.blocked s then interleave c m ts s else ({ s with turns := ts }, true)
    else interleave c m ts (contextStep d s)

/-- Run an operation of context `c`: its steps in order, other agents moving between them as `turns` says, until it ends, is set
aside, waits for the lock with no turn left, or calls a line handler. What is left of it stays in progress in the context. -/
def runOp (c : Nat) (ret : Return) : List Micro → Half → State → State
  | [], latch, s => finish c (ret.eval latch) s
  | m :: rest, latch, s =>
    let (s₁, go) := if m.shared then interleave c m s.turns s else (s, true)
    if go then
      match m.run c latch s₁ with
      | .more latch' s₂ => runOp c ret rest latch' s₂
      | .ended s₂ => s₂
      | .calls s₂ => pushFrame c ⟨latch, m :: rest, ret, true⟩ s₂
      | .waits => pushFrame c ⟨latch, m :: rest, ret, false⟩ s₁
    else pushFrame c ⟨latch, m :: rest, ret, false⟩ s₁

/-! ### Outcomes of an instruction -/

/-- What a step of the machine answers. -/
abbrev Answer := Host.Outcome State Fault Refusal

/-- Run an operation in the issuing context. -/
def start (prog : List Micro) (ret : Return) (s : State) : Answer := .next (runOp s.cur ret prog 0 s)

/-- Raise an error before any step of the operation: its caller receives it, nothing else changes (R13, R202, R213). -/
def raise (e : Err) (s : State) : Answer := .next (finish s.cur (.error e) s)

/-- Refusals come before everything else (R204, R211). -/
def unlessRefused (r : Option Refusal) (k : Answer) : Answer :=
  match r with
  | some why => .refused why
  | none => k

/-- An operation that is defined only while the device is up (R32, R141). -/
def downRefusal (s : State) : Option Refusal := if s.devstate = .down then some .deviceDown else none

/-- The refusals of a line operation (R155): device down, line out of range. -/
def lineRefusal (o : Nat) (s : State) : Option Refusal :=
  if s.devstate = .down then some .deviceDown
  else if o < s.params.noutN + s.params.ninN then none
  else some .lineOutOfRange

/-- The refusals of an interrupt-chip operation (R165): device down, line out of range, output line. -/
def inputRefusal (l : Nat) (s : State) : Option Refusal :=
  if s.devstate = .down then some .deviceDown
  else if s.params.noutN + s.params.ninN ≤ l then some .lineOutOfRange
  else if l < s.params.noutN then some .outputLine
  else none

/-! ### Sequences of steps that several operations share -/

/-- The steps of `IFEN en` (R136). -/
def ifenSteps (en : Bool) : List Micro := [.read .ctrl, .write .ctrl (.ifen en)]

/-- A read-modify-write of `EVCFG[b]` inside an enable bracket (R62). -/
def bracketed (b : Nat) (u : Update) : List Micro :=
  ifenSteps false ++ [.read (.bank .evcfg b), .write (.bank .evcfg b) u] ++ ifenSteps true

/-- Steps that run with the controller-wide lock held (R61). -/
def locked (body : List Micro) : List Micro := .acquire :: body ++ [.release]

/-- The write that clears one status bit (R170, R171, R172, D36). -/
def clearStatus (b k : Nat) : Micro := .write (.bank .evsts b) (.const ((bitMask k).setWidth 16))

end Sys2Proof.Machine
end

