-- ==== Sys2Proof/Machine/BusTransactions.lean ====
section
/-! DEFINITION. The fourteen bus transactions (40_register_access.md R102 to R116): each is one atomic step, defined in both device
states, that takes no lock. -/

namespace Sys2Proof.Machine

/-- A read transaction: the value read is handed back (R116). -/
def busRead (r : Reg) (s : State) : Answer := start [.read r] .latch s

/-- A write transaction (R116). -/
def busWrite (r : Reg) (v : Half) (s : State) : Answer := start [.write r (.const v)] .ok s

/-- `RD8 WDATA[b]` (R102). -/
def execRd8Wdata (b : Nat) (s : State) : Answer := busRead (.bank .wdata b) s

/-- `WR8 WDATA[b], v` (R103). -/
def execWr8Wdata (b : Nat) (v : Byte) (s : State) : Answer := busWrite (.bank .wdata b) (v.setWidth 16) s

/-- `RD8 RDATA[b]` (R104). -/
def execRd8Rdata (b : Nat) (s : State) : Answer := busRead (.bank .rdata b) s

/-- `WR8 RDATA[b], v` (R105): accepted and ignored. -/
def execWr8Rdata (b : Nat) (v : Byte) (s : State) : Answer := busWrite (.bank .rdata b) (v.setWidth 16) s

/-- `RD16 EVCFG[b]` (R106). -/
def execRd16Evcfg (b : Nat) (s : State) : Answer := busRead (.bank .evcfg b) s

/-- `WR16 EVCFG[b], v` (R107). -/
def execWr16Evcfg (b : Nat) (v : Half) (s : State) : Answer := busWrite (.bank .evcfg b) v s

/-- `RD8 EVSTS[b]` (R108). -/
def execRd8Evsts (b : Nat) (s : State) : Answer := busRead (.bank .evsts b) s

/-- `WR8 EVSTS[b], v` (R109): write-1-to-clear. -/
def execWr8Evsts (b : Nat) (v : Byte) (s : State) : Answer := busWrite (.bank .evsts b) (v.setWidth 16) s

/-- `RD8 CTRL` (R110). -/
def execRd8Ctrl (s : State) : Answer := busRead .ctrl s

/-- `WR8 CTRL, v` (R111). -/
def execWr8Ctrl (v : Byte) (s : State) : Answer := busWrite .ctrl (v.setWidth 16) s

/-- `RD8 CLKCFG` (R112). -/
def execRd8Clkcfg (s : State) : Answer := busRead .clkcfg s

/-- `WR8 CLKCFG, v` (R113). -/
def execWr8Clkcfg (v : Byte) (s : State) : Answer := busWrite .clkcfg (v.setWidth 16) s

/-- `RD8 PORTCFG` (R114). -/
def execRd8Portcfg (s : State) : Answer := busRead .portcfg s

/-- `WR8 PORTCFG, v` (R115). -/
def execWr8Portcfg (v : Byte) (s : State) : Answer := busWrite .portcfg (v.setWidth 16) s

/-- The register a transaction at address `a` of `n` bytes means, if there is one (R50, R54, R56, R116). -/
def regAtAddress (p : Params) (a n : Nat) : Option Reg := if a < p.base then none else regAt (a - p.base) n

/-- `MemRead(a, n)` (R13, R116): the read of the register that stands there with that width, refused where there is none. -/
def memRead (a n : Nat) (s : State) : Answer :=
  match regAtAddress s.params a n with
  | some r => busRead r s
  | none => .refused .undefinedTransaction

/-- `MemWrite(a, n, v)` (R13, R116): the write of the register that stands there with that width, refused where there is none. As R13 types
it, `v` is an `8n`-bit value, so an 8-bit write has no value above 0xFF (entry 16). -/
def memWrite (a n : Nat) (v : BitVec (8 * n)) (s : State) : Answer :=
  match regAtAddress s.params a n with
  | some r => busWrite r (v.setWidth 16) s
  | none => .refused .undefinedTransaction

end Sys2Proof.Machine
end

