-- ==== Sys2Proof/Machine/Dispatcher.lean ====
section
/-! DEFINITION. The Chained Dispatcher: DISPATCH (45_dispatcher.md R186 to R193). -/

namespace Sys2Proof.Machine

/-- Bank `b` of a pass: one read of `EVSTS[b]`, then its bits in ascending order (R186). -/
def scanBank (b : Nat) : List Micro :=
  .read (.bank .evsts b) :: (List.range 8).map (fun k => .scan b k)

/-- A full pass: the eight banks in ascending order, with no early exit (R186). -/
def dispatchSteps : List Micro := (List.range 8).flatMap scanBank

/-- The scan position `(sb, sk)` of a DISPATCH in progress (R43): the bit being examined, also while the handler of its line runs (R193);
bit 0 of the bank whose read comes next. None of any other operation. -/
def Frame.scanPosition (f : Frame) : Option (Nat × Nat) :=
  match f.todo with
  | .scan b k :: _ => some (b, k)
  | .read (.bank .evsts b) :: .scan _ _ :: _ => some (b, 0)
  | _ => none

/-- The snapshot `snap` of a DISPATCH in progress, from the read of its bank to the end of that bank's bits (R43). -/
def Frame.snapshot (f : Frame) : Option Byte :=
  match f.todo with
  | .scan _ _ :: _ => some (f.latch.setWidth 8)
  | _ => none

/-- `DISPATCH` (R186). It runs up to the first delivery; the pass goes on when the handler returns (R193; entry 7). -/
def execDispatch (s : State) : Answer :=
  unlessRefused (downRefusal s) <| start dispatchSteps .ok s

end Sys2Proof.Machine
end

