-- ==== Sys2Proof/Machine/InitClockPort.lean ====
section
/-! DEFINITION. INIT, CLKSEL, PORTW and IFEN (42_init_clock_port.md R132, R135, R136, R139). -/

namespace Sys2Proof.Machine

/-- The transactions of a successful selection: read `CLKCFG`, write it back with bits 3:0 replaced (R132, R133). -/
def clkselSteps (sel : BitVec 4) : List Micro := [.read .clkcfg, .write .clkcfg (.clkSel sel)]

/-- The steps of PORTW with port-width byte `v`: write it, read it back, compare (R135). -/
def portwSteps (v : Byte) : List Micro :=
  [.write .portcfg (.const (v.setWidth 16)), .read .portcfg, .check v]

/-- The first configuration error INIT finds before it touches the hardware (R139, R211). -/
def initError (p : Params) : Option Err :=
  match p.nin, p.nout, p.reqHz with
  | some nin, some nout, some _ =>
    if nin > 64 ∨ nout > 64 then some .lineCountExceedsMax
    else if p.refHz = none then some .clockReferenceMissing
    else none
  | _, _, _ => some .propertyUnreadable

/-- A table with a divisor of 0 is refused (R138, U12; entry 12). -/
def tableRefusal (s : State) : Option Refusal := if hasZeroDivisor s.params.clktab then some .zeroDivisor else none

/-- The refusals of INIT: the device is already up, an illegal table (R138, R139). -/
def initRefusal (s : State) : Option Refusal := if s.devstate = .up then some .initTwice else tableRefusal s

/-- `CLKSEL` (R132); its one error is the exhausted table (R201). An absent frequency is a free value (entry 11). -/
def execClksel (s : State) : Answer :=
  unlessRefused (tableRefusal s) <|
    match clkselChoice s with
    | none => raise .dividerTableExhausted (useDraw (clkselDraws s.params) s)
    | some sel => start (clkselSteps sel) .ok (useDraw (clkselDraws s.params) s)

/-- `PORTW` (R135); its one error is the read-back mismatch (R201). An absent line count is a free value (entry 11). -/
def execPortw (s : State) : Answer := start (portwSteps (portByteRead s)) .ok (useDraw (portwDraws s.params) s)

/-- `IFEN en` (R136). -/
def execIfen (en : Bool) (s : State) : Answer := start (ifenSteps en) .ok s

/-- `INIT` (R139): the checks, then CLKSEL, PORTW and IFEN 1, then the device is up. Past the checks every parameter is present. -/
def execInit (s : State) : Answer :=
  unlessRefused (initRefusal s) <|
    match initError s.params with
    | some e => raise e s
    | none =>
      match clkselChoice s with
      | none => raise .dividerTableExhausted s
      | some sel => start (clkselSteps sel ++ portwSteps (portByte s.params) ++ ifenSteps true ++ [.bringUp]) .ok s

end Sys2Proof.Machine
end

