-- ==== Sys2Proof/Machine/InterruptChip.lean ====
section
/-! DEFINITION. The Interrupt Chip: SETTYPE, MASK, UNMASK, ACK (44_interrupt_chip.md R165 to R172). -/

namespace Sys2Proof.Machine

/-- The locked body of SETTYPE for input-relative offset `i` (R167). -/
def settypeSteps (i : Nat) (c : Code) (st : Strategy) : List Micro :=
  locked ([.setType i c, .setStrat i st] ++ bracketed (bankOf i) (.orSlot (bitOf i) c))

/-- The locked body of MASK (R170). -/
def maskSteps (i : Nat) : List Micro :=
  locked (bracketed (bankOf i) (.clearSlot (bitOf i)) ++ [clearStatus (bankOf i) (bitOf i)])

/-- The locked body of UNMASK (R171). -/
def unmaskSteps (i : Nat) : List Micro :=
  locked (bracketed (bankOf i) (.restoreSlot (bitOf i) i) ++ [clearStatus (bankOf i) (bitOf i)])

/-- The locked body of ACK (R172). -/
def ackSteps (i : Nat) : List Micro := locked [clearStatus (bankOf i) (bitOf i)]

/-- `SETTYPE l, t` (R167): an unsupported type is an error before the lock is taken. -/
def execSettype (l : Nat) (t : BitVec 4) (s : State) : Answer :=
  unlessRefused (inputRefusal l s) <|
    match triggerOf t with
    | none => raise .unsupportedTriggerType s
    | some (c, st) => start (settypeSteps (rel s.params l) c st) .ok s

/-- `MASK l` (R170). -/
def execMask (l : Nat) (s : State) : Answer :=
  unlessRefused (inputRefusal l s) <| start (maskSteps (rel s.params l)) .ok s

/-- `UNMASK l` (R171). -/
def execUnmask (l : Nat) (s : State) : Answer :=
  unlessRefused (inputRefusal l s) <| start (unmaskSteps (rel s.params l)) .ok s

/-- `ACK l` (R172). -/
def execAck (l : Nat) (s : State) : Answer :=
  unlessRefused (inputRefusal l s) <| start (ackSteps (rel s.params l)) .ok s

end Sys2Proof.Machine
end

