-- ==== Sys2Proof/Machine/LineIo.lean ====
section
/-! DEFINITION. The Line I/O Engine: DIRGET, DIRSET, DIROUT, GET, SET (43_line_io.md R150 to R155). -/

namespace Sys2Proof.Machine

/-- The unlocked read-modify-write of SET and DIROUT: one read and one write of the line's `WDATA` byte (R154, R64). -/
def setSteps (o : Nat) (v : Bool) : List Micro :=
  [.read (.bank .wdata (outCoord o).1), .write (.bank .wdata (outCoord o).1) (.setBit (outCoord o).2 v)]

/-- `DIRGET o` (R150): 0 output, 1 input; no transaction. -/
def execDirget (o : Nat) (s : State) : Answer :=
  unlessRefused (lineRefusal o s) <| start [] (.const (if isOutput s.params o then 0 else 1)) s

/-- `DIRSET o, d` (R151): the direction a line already has, or an error. -/
def execDirset (o : Nat) (d : Direction) (s : State) : Answer :=
  unlessRefused (lineRefusal o s) <|
    match d, isOutput s.params o with
    | .input, true => raise .directionMismatch s
    | .output, false => raise .directionMismatch s
    | _, _ => start [] .ok s

/-- `DIROUT o, v` (R152): as SET. -/
def execDirout (o : Nat) (v : Bool) (s : State) : Answer :=
  unlessRefused (lineRefusal o s) <|
    if isOutput s.params o then start (setSteps o v) .ok s else raise .directionMismatch s

/-- `GET o` (R153): one read of the line's `WDATA` or `RDATA` byte. -/
def execGet (o : Nat) (s : State) : Answer :=
  unlessRefused (lineRefusal o s) <|
    if isOutput s.params o then start [.read (.bank .wdata (outCoord o).1)] (.bit (outCoord o).2) s
    else start [.read (.bank .rdata (inCoord s.params o).1)] (.bit (inCoord s.params o).2) s

/-- `SET o, v` (R154). -/
def execSet (o : Nat) (v : Bool) (s : State) : Answer :=
  unlessRefused (lineRefusal o s) <|
    if isOutput s.params o then start (setSteps o v) .ok s else raise .directionMismatch s

end Sys2Proof.Machine
end

