-- ==== Sys2Proof/Machine/Dispatch.lean ====
section
/-! DEFINITION. The meaning of each instruction, one arm per row of the operation map (30_encoding.md R86, R87). -/

namespace Sys2Proof.Machine

def exec (i : Instr) (s : State) : Host.Outcome State Fault Refusal :=
  match i with
  -- operations (R86)
  | .init => Sys2Proof.Machine.execInit s
  | .clksel => Sys2Proof.Machine.execClksel s
  | .portw => Sys2Proof.Machine.execPortw s
  | .ifen en => Sys2Proof.Machine.execIfen en s
  | .dirget o => Sys2Proof.Machine.execDirget o s
  | .dirset o d => Sys2Proof.Machine.execDirset o d s
  | .dirout o v => Sys2Proof.Machine.execDirout o v s
  | .get o => Sys2Proof.Machine.execGet o s
  | .set o v => Sys2Proof.Machine.execSet o v s
  | .settype l t => Sys2Proof.Machine.execSettype l t s
  | .mask l => Sys2Proof.Machine.execMask l s
  | .unmask l => Sys2Proof.Machine.execUnmask l s
  | .ack l => Sys2Proof.Machine.execAck l s
  | .dispatch => Sys2Proof.Machine.execDispatch s
  -- bus transactions (R87)
  | .rd8Wdata b => Sys2Proof.Machine.execRd8Wdata b s
  | .wr8Wdata b v => Sys2Proof.Machine.execWr8Wdata b v s
  | .rd8Rdata b => Sys2Proof.Machine.execRd8Rdata b s
  | .wr8Rdata b v => Sys2Proof.Machine.execWr8Rdata b v s
  | .rd16Evcfg b => Sys2Proof.Machine.execRd16Evcfg b s
  | .wr16Evcfg b v => Sys2Proof.Machine.execWr16Evcfg b v s
  | .rd8Evsts b => Sys2Proof.Machine.execRd8Evsts b s
  | .wr8Evsts b v => Sys2Proof.Machine.execWr8Evsts b v s
  | .rd8Ctrl => Sys2Proof.Machine.execRd8Ctrl s
  | .wr8Ctrl v => Sys2Proof.Machine.execWr8Ctrl v s
  | .rd8Clkcfg => Sys2Proof.Machine.execRd8Clkcfg s
  | .wr8Clkcfg v => Sys2Proof.Machine.execWr8Clkcfg v s
  | .rd8Portcfg => Sys2Proof.Machine.execRd8Portcfg s
  | .wr8Portcfg v => Sys2Proof.Machine.execWr8Portcfg v s

end Sys2Proof.Machine
end

