-- ==== Sys2Proof/Machine/Fetch.lean ====
section
/-! DEFINITION. How a request comes to run: which agent moves, what a context does next, taking the parent interrupt and returning from a
line handler (60_exceptions.md R212, R214, R215; 45_dispatcher.md R185, R189, R193). -/

namespace Sys2Proof.Machine

/-- Why a presented word is refused: a reserved operation word (R90) or an undefined transaction (R91). -/
def wordRefusal (w : HostWord) : Refusal :=
  match w with
  | .opw _ => .reservedWord
  | .busw _ => .undefinedTransaction

/-- Context `c` has an operation in progress that no handler holds up. -/
def busy (c : Nat) (s : State) : Bool :=
  match (ctxAt s c).stack with
  | [] => false
  | f :: _ => !f.inHandler

/-- The innermost operation of context `c` goes on, if no handler holds it up. -/
def resume (c : Nat) (s : State) : State :=
  match (ctxAt s c).stack with
  | [] => s
  | f :: below => if f.inHandler then s else runOp c f.ret f.todo f.latch (setStack c below s)

/-- The line handler called last in context `c` returns, and the pass that called it goes on after the bit it was examining (R43, R193,
R214). With no handler running nothing returns. -/
def handlerReturn (c : Nat) (s : State) : State :=
  match (ctxAt s c).stack with
  | [] => s
  | f :: below => if f.inHandler then runOp c f.ret f.todo.tail f.latch (setStack c below s) else s

/-- The request word that stands first in context `c` is decoded and run (R86, R87, R90, R91, R204). -/
def issue (w : HostWord) (s : State) : Answer :=
  match decode w with
  | .ok i => exec i s
  | .error _ => .refused (wordRefusal w)

/-- Context `c` is asked to accept the parent interrupt, with `q` to do after it (R212, R215). While it holds the lock it takes no
interrupt and goes on with its locked body (R61); with `IRQ = 0` there is none to take (R189); otherwise it runs one DISPATCH, on top
of whatever it was doing. Entry saves nothing and changes nothing in the block. -/
def interruptEntry (c : Nat) (q : List Request) (s : State) : Answer :=
  if s.lock = .held c then .next (resume c s)
  else if irq s then exec .dispatch (setRequests c q s)
  else .next (setRequests c q s)

/-- One step of context `c`: it takes an interrupt, goes on with its operation in progress, or does what it is to do next (R185). -/
def act (c : Nat) (s : State) : Answer :=
  match (ctxAt s c).requests with
  | [] => .next (resume c s)
  | .interrupt :: q => interruptEntry c q s
  | .handlerReturn :: q => .next (if busy c s then resume c s else handlerReturn c (setRequests c q s))
  | .issue w :: q => if busy c s then .next (resume c s) else issue w (setRequests c q s)

/-- One step of the machine (R63, R185): the agent whose turn it is moves; a recorded programming-logic fault is fatal (R203). -/
def serve (s : State) : Answer :=
  if s.fault ≠ [] then .fault .logicFault
  else
    match s.agenda with
    | [] => act s.cur s
    | .ctx c :: q => act c { s with agenda := q, cur := c }
    | .sampler inp :: q => .next (sample inp { s with agenda := q })

/-- Put a word first among what the current context does, and give that context the next step. -/
def presentWord (w : HostWord) (s : State) : State :=
  { setRequests s.cur (.issue w :: (ctxAt s s.cur).requests) s with agenda := .ctx s.cur :: s.agenda }

end Sys2Proof.Machine
end

