-- ==== Sys2Proof/Safety.lean ====
section
/-! DEFINITION. What counts as a sound state and a safe run, in the terms the statements use. -/

namespace Sys2Proof.Machine

/-- The registers a step of an operation touches are registers the accessor knows (10_state.md R37, 40_register_access.md R101). -/
def Micro.inRange (m : Micro) : Bool :=
  match m with
  | .read r => (regOffset r).isSome
  | .write r _ => (regOffset r).isSome
  | _ => true

/-- A list of steps takes and releases the lock in turn (20_memory.md R61): starting outside (`false`) or inside (`true`) a locked body,
it acquires only outside, releases only inside, fails and calls handlers only outside, and ends outside. -/
def lockShape : Bool → List Micro → Bool
  | inside, [] => !inside
  | inside, .acquire :: rest => !inside && lockShape true rest
  | inside, .release :: rest => inside && lockShape false rest
  | inside, .check _ :: rest => !inside && lockShape false rest
  | inside, .scan _ _ :: rest => !inside && lockShape false rest
  | inside, _ :: rest => lockShape inside rest

/-- An operation in progress is inside its locked body: what is left of it releases the lock before taking it (R61). -/
def Frame.insideLock (f : Frame) : Bool := lockShape true f.todo

/-- How many operations in progress of context `c` are inside a locked body. -/
def lockHolders (s : State) (c : Nat) : Nat := (ctxAt s c).stack.countP Frame.insideLock

/-- An operation in progress that some operation of the map could have left. -/
structure Frame.Sound (p : Params) (f : Frame) : Prop where
  /-- Every register it still touches is in the window. -/
  inRange : f.todo.all Micro.inRange = true
  /-- It takes and releases the lock in turn. -/
  shape : lockShape false f.todo = true ∨ lockShape true f.todo = true
  /-- Only an INIT that has checked the parameters goes on to bring the device up (42_init_clock_port.md R139). -/
  checked : .bringUp ∈ f.todo → p.initChecked = true
  /-- An operation that waits for a handler is a pass at the bit it delivered, outside the lock (R43, R193, R215, R247). -/
  handler : f.inHandler = true → ∃ b k rest, f.todo = .scan b k :: rest ∧ lockShape false rest = true

/-- The states a run of the block passes through: no programming-logic fault has happened (R37, R101), the device is up only with
parameters that INIT accepted (R32, R139), the operations in progress are sound, and the lock is held by a context exactly when one
operation in progress there is inside a locked body, so at most one is in the whole machine (R31, R61). -/
structure State.Sound (s : State) : Prop where
  noFault : s.fault = []
  upChecked : s.devstate = .up → s.params.initChecked = true
  frames : ∀ c f, f ∈ (ctxAt s c).stack → f.Sound s.params
  lockHeld : ∀ c, lockHolders s c = if s.lock = .held c then 1 else 0

/-- Nothing moves inside the operation being run: it runs from its first step to its last undisturbed. -/
def State.quiet (s : State) : Prop := s.turns = []

/-- Only the sampler, and the turns of the running context itself, fall inside the operation being run. -/
def onlySampler (c : Nat) (ts : List Turn) : Bool :=
  ts.all fun t =>
    match t with
    | .sampler _ => true
    | .ctx d => decide (d = c)
    | .preempt => false

/-- The sampler takes no step in the coming step of the machine. -/
def State.samplerIdle (s : State) : Bool :=
  (match s.agenda with
   | .sampler _ :: _ => false
   | _ => true) &&
  s.turns.all fun t =>
    match t with
    | .sampler _ => false
    | _ => true

/-- The deliveries of an undisturbed pass over the status bits of `s`, with its eight reads, in the order R186 gives. -/
def passTrace (c : Nat) (s : State) : List Event :=
  (List.range 8).flatMap fun b =>
    .read c (.bank .evsts b) ((entry s.evsts b).setWidth 16) ::
      ((List.range 8).filter (fun k => (entry s.evsts b).getLsbD k)).map (fun k => .deliver c (vline s.params b k))

/-- How many status bits are pending. -/
def pendingCount (s : State) : Nat :=
  ((List.range 64).filter (fun p => pending s p)).length

/-- Context `c` has the next step, is free to begin an operation, and what it does next is to issue the word `w`; `q` is what it does
after that and `a` the agenda after this step (45_dispatcher.md R185, 20_memory.md R63). -/
structure AboutToIssue (s : State) (c : Nat) (w : HostWord) (q : List Request) (a : List Agent) : Prop where
  noFault : s.fault = []
  turn : (s.agenda = [] ∧ a = [] ∧ c = s.cur) ∨ s.agenda = .ctx c :: a
  request : (ctxAt s c).requests = .issue w :: q
  free : busy c s = false

/-- The state in which that word is run: the request taken, the agenda moved on, `c` the issuing context. -/
def begun (s : State) (c : Nat) (q : List Request) (a : List Agent) : State :=
  setRequests c q { s with agenda := a, cur := c }

/-- What the two `CTRL` read-modify-writes of an enable bracket leave (42_init_clock_port.md R136, 20_memory.md R62): `r₁`, `c₁` are read
and written to disable the interface, `r₂`, `c₂` to enable it, and `n` free values have been used in all when it ends. -/
structure BracketCtrl (s : State) (r₁ c₁ r₂ c₂ : Byte) (n : Nat) : Prop where
  disabled : c₁.getLsbD 7 = false
  enabled : c₂.getLsbD 7 = true
  periodic₁ : c₁.extractLsb' 1 2 = s.params.rdModePeriodic
  periodic₂ : c₂.extractLsb' 1 2 = s.params.rdModePeriodic
  kept₁ : c₁ &&& 0x79 = r₁ &&& 0x79
  kept₂ : c₂ &&& 0x79 = r₂ &&& 0x79
  described₁ : r₁ &&& 0x86 = s.ctrl &&& 0x86
  described₂ : r₂ &&& 0x86 = c₁ &&& 0x86
  stored : s.params.reservedBits = .stored → r₁ = s.ctrl ∧ r₂ = c₁ ∧ n = s.draws

end Sys2Proof.Machine
end

