-- ==== Sys2Proof/Certificates/Slice0/Obligations.lean ====
section
/-! DEFINITION. The statements about the register bank, for the provers. "Undisturbed" means that nothing moves inside the operation
(`State.quiet`); line counts of at most 64 are what INIT admits (42_init_clock_port.md R139). An equation for the next state gives the
frame as well: every field it does not name is unchanged. -/

open Sys2Proof Sys2Proof.Machine

/-! ### Encoding -/

/-- Words written out from the operation map decode to their instructions, and reserved ones to none (R86, R87, R90, R91; 95_test_vectors.md 2.1,
2.11). -/
def Obligations.WrittenWordsDecode : Prop :=
  decode (.opw 0b0000000000000000) = .ok .init ∧ decode (.opw 0b0011000100000000) = .ok (.ifen true) ∧
  decode (.opw 0b0101000100000011) = .ok (.dirset 3 .input) ∧ decode (.opw 0b0111000000001000) = .ok (.get 8) ∧
  decode (.opw 0b1001001100010000) = .ok (.settype 16 0b0011) ∧ decode (.opw 0b1101000000000000) = .ok .dispatch ∧
  decode (.busw 0b100000110000000011000011) = .ok (.wr8Wdata 3 0xC3) ∧
  decode (.busw 0b110101001111111111111111) = .ok (.wr16Evcfg 2 0xFFFF) ∧
  decode (.busw 0b001010110000000000000000) = .ok .rd8Portcfg ∧
  decode (.opw 0b1000000110000101) = .error .bit7Set ∧ decode (.busw 0b001010010000000000000000) = .error .undefinedOffset

/-- Decoding the word of a well-formed instruction gives the instruction back, with every operand at every value. -/
def Obligations.DecodeInvertsEncode : Prop :=
  ∀ i : Instr, i.wellFormed = true → decode (encode i) = .ok i

/-- A word `w` is an operation exactly when `w & mask = match` of its row (R86). -/
def Obligations.OperationWordsFollowTheMap : Prop :=
  ∀ (j : Instr) (m k w : BitVec 16), opRow j = some (m, k) →
    ((∃ i, decode (.opw w) = .ok i ∧ opRow i = some (m, k)) ↔ w &&& k = m)

/-- A descriptor is a bus transaction exactly when it matches the row's match under its mask (R87). -/
def Obligations.DescriptorsFollowTheMap : Prop :=
  ∀ (j : Instr) (m k w : BitVec 24), busRow j = some (m, k) →
    ((∃ i, decode (.busw w) = .ok i ∧ busRow i = some (m, k)) ↔ w &&& k = m)

/-- An operation word that matches no row is refused when a context issues it (R90). -/
def Obligations.ReservedWordsAreRefused : Prop :=
  ∀ (s : State) (c : Nat) (w : BitVec 16) (q : List Request) (a : List Agent), AboutToIssue s c (.opw w) q a →
    (∀ (j : Instr) (m k : BitVec 16), opRow j = some (m, k) → w &&& k ≠ m) → step s = .refused .reservedWord

/-- The descriptors R91 lists are exactly those that decode to nothing, and one of them is refused when a context issues it. -/
def Obligations.UndefinedTransactionsAreRefused : Prop :=
  ∀ w : BitVec 24,
    let byteAccess := w.getLsbD 22 = false
    let off := (w.extractLsb' 16 6).toNat
    let listed :=
      (byteAccess ∧ 0x10 ≤ off ∧ off ≤ 0x1F) ∨ (¬ byteAccess ∧ ¬ (0x10 ≤ off ∧ off ≤ 0x1E ∧ off % 2 = 0)) ∨
      (off = 0x29 ∨ 0x2C ≤ off) ∨ (byteAccess ∧ w.getLsbD 23 = true ∧ w.extractLsb' 8 8 ≠ 0)
    (listed ↔ ∃ e, decode (.busw w) = .error e) ∧
    (listed → ∀ (s : State) (c : Nat) (q : List Request) (a : List Agent), AboutToIssue s c (.busw w) q a →
      step s = .refused .undefinedTransaction)

/-! ### The step -/

/-- A step of a context that issues a word runs the instruction the word decodes to: the request is taken, the agenda moves on, the
context is the issuing one, and then `exec` of the instruction. -/
def Obligations.StepRunsTheDecodedInstruction : Prop :=
  ∀ (s : State) (c : Nat) (w : HostWord) (q : List Request) (a : List Agent) (i : Instr),
    AboutToIssue s c w q a → decode w = .ok i → step s = exec i (begun s c q a)

/-- A word placed for the next step is run by it: with a current context that exists and is free, the step is `exec` of the decoded
instruction in the state it was placed in. -/
def Obligations.PlacedWordRunsNext : Prop :=
  ∀ (s : State) (nbits w : Nat) (i : Instr), s.fault = [] → s.cur < s.ctxs.length → busy s.cur s = false →
    decodeTableWord nbits w = some i → step (s.withFetchWord nbits w) = exec i s

/-! ### Reset -/

/-- The state after reset, for all parameters and every draw of the unspecified registers: what R40's table says. Its value 0x0000 for EVCFG is
the launch premise evcfg_clear, which R40 itself calls a premise a model may drop; that the model takes it is log entry 4 (PRESUMED, unsafe). -/
def Obligations.ResetLeavesTheStatedValues : Prop :=
  ∀ (p : Params) (d : ResetDraw), let s := State.resetWith p d
    (∀ b, b < 8 → entry s.evcfg b = 0x0000) ∧ (∀ i, i < 64 → entry s.trigType i = 0b00) ∧
    (∀ i, i < 64 → stratEntry s.strat i = .unset) ∧ s.lock = .free ∧ s.devstate = .down ∧ s.fault = [] ∧
    s.wdata = d.wdata ∧ s.rdata = d.rdata ∧ s.evsts = d.evsts ∧ s.ctrl = d.ctrl ∧ s.clkcfg = d.clkcfg ∧
    s.portcfg = d.portcfg

/-! ### The Register Accessor -/

/-- The address of every register, base plus table offset (R100), with the rule's example. -/
def Obligations.AccessorAddresses : Prop :=
  (∀ (p : Params) (b : Nat), b < 8 →
    addr p (.bank .wdata b) = some (p.base + 0x00 + b) ∧ addr p (.bank .rdata b) = some (p.base + 0x08 + b) ∧
    addr p (.bank .evcfg b) = some (p.base + 0x10 + 2 * b) ∧ addr p (.bank .evsts b) = some (p.base + 0x20 + b)) ∧
  (∀ p : Params, addr p .ctrl = some (p.base + 0x28) ∧ addr p .clkcfg = some (p.base + 0x2A) ∧
    addr p .portcfg = some (p.base + 0x2B)) ∧
  (∀ p : Params, p.base = 0xF0101000 → addr p (.bank .evcfg 3) = some 0xF0101016)

/-- `MemRead` and `MemWrite` at the accessor's address of a register, with its width, are the transactions of that register; at any other
address, or with any other width, they are refused (R116; the accessor R100, the widths R54). -/
def Obligations.WindowTransactionsFollowTheAccessor : Prop :=
  ∀ (s : State) (a n : Nat) (v : BitVec (8 * n)),
    (∀ r, addr s.params r = some a → regBytes r = n →
      memRead a n s = busRead r s ∧ memWrite a n v s = busWrite r (v.setWidth 16) s) ∧
    ((∀ r, addr s.params r = some a → regBytes r ≠ n) →
      memRead a n s = .refused .undefinedTransaction ∧ memWrite a n v s = .refused .undefinedTransaction)

/-- A transaction on a bank of 8 or more, which no descriptor encodes, is the programming-logic fault: recorded in FAULT, no register
touched; and a machine whose FAULT is not empty takes no further step (R101, R203; the stop is entry 13's choice). -/
def Obligations.BadBankIsALogicFault : Prop :=
  (∀ (s : State) (b : Nat) (v : Byte) (w : Half) (i : Instr), s.quiet → s.fault = [] → 8 ≤ b →
    i ∈ [Instr.rd8Wdata b, .wr8Wdata b v, .rd8Rdata b, .wr8Rdata b v, .rd16Evcfg b, .wr16Evcfg b w, .rd8Evsts b,
      .wr8Evsts b v] →
    exec i s = .next { s with
      fault := [.badRegisterKind], trace := s.trace ++ [.done s.cur (.error .badRegisterKind)] }) ∧
  (∀ s : State, s.fault ≠ [] → step s = .fault .logicFault)

/-! ### The bus transactions -/

/-- A read of a register of a bank returns what it holds and changes nothing: one read, in either device state (R102, R104, R106, R108). -/
def Obligations.BankReadsReturnTheRegister : Prop :=
  ∀ (s : State) (b : Nat), s.quiet → b < 8 →
    (let v : Half := (entry s.wdata b).setWidth 16
     exec (.rd8Wdata b) s = .next { s with
       trace := s.trace ++ [.read s.cur (.bank .wdata b) v, .done s.cur (.value v)] }) ∧
    (let v : Half := (entry s.rdata b).setWidth 16
     exec (.rd8Rdata b) s = .next { s with
       trace := s.trace ++ [.read s.cur (.bank .rdata b) v, .done s.cur (.value v)] }) ∧
    (let v : Half := entry s.evcfg b
     exec (.rd16Evcfg b) s = .next { s with
       trace := s.trace ++ [.read s.cur (.bank .evcfg b) v, .done s.cur (.value v)] }) ∧
    (let v : Half := (entry s.evsts b).setWidth 16
     exec (.rd8Evsts b) s = .next { s with
       trace := s.trace ++ [.read s.cur (.bank .evsts b) v, .done s.cur (.value v)] })

/-- A read of CTRL or CLKCFG returns its described bits, and all of it when undescribed bits are stored; no register changes (R110, R112,
R28). -/
def Obligations.ControlReadsReturnTheRegister : Prop :=
  ∀ s : State, s.quiet →
    (∃ (v : Byte) (n : Nat),
      exec .rd8Ctrl s = .next { s with
        draws := n
        trace := s.trace ++ [.read s.cur .ctrl (v.setWidth 16), .done s.cur (.value (v.setWidth 16))] } ∧
      v &&& 0x86 = s.ctrl &&& 0x86 ∧ (s.params.reservedBits = .stored → v = s.ctrl ∧ n = s.draws)) ∧
    (∃ (v : Byte) (n : Nat),
      exec .rd8Clkcfg s = .next { s with
        draws := n
        trace := s.trace ++ [.read s.cur .clkcfg (v.setWidth 16), .done s.cur (.value (v.setWidth 16))] } ∧
      v &&& 0x3F = s.clkcfg &&& 0x3F ∧ (s.params.reservedBits = .stored → v = s.clkcfg ∧ n = s.draws))

/-- A read of PORTCFG: before any write the reset value; after a write of a legal byte PORT_READBACK of it, which is the byte itself when the
device is present; after a write of a byte with a nibble of 9 to 15 some byte. No register changes (R114, R115, R27). -/
def Obligations.PortReadsReturnTheReadback : Prop :=
  ∀ s : State, s.quiet →
    ∃ (v : Byte) (n : Nat),
      exec .rd8Portcfg s = .next { s with
        draws := n
        trace := s.trace ++ [.read s.cur .portcfg (v.setWidth 16), .done s.cur (.value (v.setWidth 16))] } ∧
      (s.portWritten = false → v = s.portcfg ∧ n = s.draws) ∧
      (s.portWritten = true → (s.portcfg.extractLsb' 0 4).toNat ≤ 8 → (s.portcfg.extractLsb' 4 4).toNat ≤ 8 →
        v = portReadback s.params s.portcfg ∧ (s.params.portReadback = [] → v = s.portcfg) ∧ n = s.draws)

/-- A write to WDATA[b] replaces all eight bits, and a write to RDATA[b] is accepted and ignored (R103, R105). -/
def Obligations.DataWritesStoreOrAreIgnored : Prop :=
  ∀ (s : State) (b : Nat) (v : Byte), s.quiet → b < 8 →
    exec (.wr8Wdata b v) s = .next { s with
      wdata := putEntry s.wdata b v
      trace := s.trace ++ [.write s.cur (.bank .wdata b) (v.setWidth 16), .done s.cur .ok] } ∧
    exec (.wr8Rdata b v) s = .next { s with
      trace := s.trace ++ [.write s.cur (.bank .rdata b) (v.setWidth 16), .done s.cur .ok] }

/-- A write to EVCFG[b] replaces all sixteen bits and clears no status bit (R107). -/
def Obligations.EventConfigWritesStore : Prop :=
  ∀ (s : State) (b : Nat) (v : Half), s.quiet → b < 8 →
    exec (.wr16Evcfg b v) s = .next { s with
      evcfg := putEntry s.evcfg b v
      trace := s.trace ++ [.write s.cur (.bank .evcfg b) v, .done s.cur .ok] }

/-- A write to EVSTS[b] clears exactly the bits that are 1 in the value written and sets none; nothing else changes (R109). -/
def Obligations.StatusWritesClearWrittenOnes : Prop :=
  ∀ (s : State) (b : Nat) (v : Byte), s.quiet → b < 8 →
    ∃ sts : Byte,
      exec (.wr8Evsts b v) s = .next { s with
        evsts := putEntry s.evsts b sts
        trace := s.trace ++ [.write s.cur (.bank .evsts b) (v.setWidth 16), .done s.cur .ok] } ∧
      ∀ k, k < 8 → sts.getLsbD k = ((entry s.evsts b).getLsbD k && !v.getLsbD k)

/-- A write to CTRL, CLKCFG or PORTCFG stores any value and changes nothing else (R111, R113, R115). -/
def Obligations.GlobalWritesStore : Prop :=
  ∀ (s : State) (v : Byte), s.quiet →
    exec (.wr8Ctrl v) s = .next { s with
      ctrl := v, trace := s.trace ++ [.write s.cur .ctrl (v.setWidth 16), .done s.cur .ok] } ∧
    exec (.wr8Clkcfg v) s = .next { s with
      clkcfg := v, trace := s.trace ++ [.write s.cur .clkcfg (v.setWidth 16), .done s.cur .ok] } ∧
    exec (.wr8Portcfg v) s = .next { s with
      portcfg := v, portWritten := true
      trace := s.trace ++ [.write s.cur .portcfg (v.setWidth 16), .done s.cur .ok] }

/-! ### Initialisation, clock, port width, interface enable -/

/-- The divider selection on a table whose candidate frequencies ascend (R132, R137): a request below the second candidate selects entry 0;
one from candidate `j` up to but excluding candidate `j+1` selects entry `j`; one above the last selects the last; one equal to the last
of two or more finds none; an empty table finds none. -/
def Obligations.DividerSelectionByThreshold : Prop :=
  (∀ (ref req : Nat) (tab : List ClkEntry), tab.Pairwise (fun e f => ref / e.div ≤ ref / f.div) →
    (∀ (h : 1 < tab.length), req < ref / (tab[1]'h).div →
      selectDivider ref req tab = some (tab[0]'(by omega)).sel) ∧
    (∀ (j : Nat) (h : j + 1 < tab.length), ref / (tab[j]'(by omega)).div ≤ req → req < ref / (tab[j + 1]'h).div →
      selectDivider ref req tab = some (tab[j]'(by omega)).sel) ∧
    (∀ (j : Nat) (h : j < tab.length), j + 1 = tab.length → ref / (tab[j]'h).div < req →
      selectDivider ref req tab = some (tab[j]'h).sel) ∧
    (∀ (j : Nat) (h : j < tab.length), 0 < j → j + 1 = tab.length → req = ref / (tab[j]'h).div →
      selectDivider ref req tab = none)) ∧
  (∀ ref req : Nat, selectDivider ref req [] = none) ∧
  (∀ (ref req : Nat) (e : ClkEntry), req ≤ ref / e.div → selectDivider ref req [e] = none)

/-- CLKSEL with a selection found: one read and one write of CLKCFG, bits 3:0 the selected encoding, bits 7:4 as read (R132, R133). Issued
on its own with a frequency absent, it selects by a free value (the model's choice, log entry 11): some entry of the table is written so, or
the table is exhausted and nothing is. -/
def Obligations.ClkselWritesTheSelection : Prop :=
  (∀ (s : State) (ref req : Nat) (sel : BitVec 4), s.quiet → s.params.refHz = some ref → s.params.reqHz = some req →
    hasZeroDivisor s.params.clktab = false → selectDivider ref req s.params.clktab = some sel →
    ∃ (old c : Byte) (n : Nat),
      exec .clksel s = .next { s with
        clkcfg := c, draws := n
        trace := s.trace ++ [.read s.cur .clkcfg (old.setWidth 16), .write s.cur .clkcfg (c.setWidth 16), .done s.cur .ok] } ∧
      c.extractLsb' 0 4 = sel ∧ c.extractLsb' 4 4 = old.extractLsb' 4 4 ∧
      old.extractLsb' 4 2 = s.clkcfg.extractLsb' 4 2 ∧
      (s.params.reservedBits = .stored → old = s.clkcfg ∧ n = s.draws)) ∧
  (∀ s : State, s.quiet → s.params.refHz = none ∨ s.params.reqHz = none → hasZeroDivisor s.params.clktab = false →
    (∃ e ∈ s.params.clktab, ∃ (old c : Byte) (n : Nat),
      exec .clksel s = .next { s with
        clkcfg := c, draws := n
        trace := s.trace ++ [.read s.cur .clkcfg (old.setWidth 16), .write s.cur .clkcfg (c.setWidth 16), .done s.cur .ok] } ∧
      c.extractLsb' 0 4 = e.sel ∧ c.extractLsb' 4 4 = old.extractLsb' 4 4 ∧
      old.extractLsb' 4 2 = s.clkcfg.extractLsb' 4 2 ∧ (s.params.reservedBits = .stored → old = s.clkcfg)) ∨
    (∃ n : Nat, exec .clksel s = .next { s with
      draws := n, trace := s.trace ++ [.done s.cur (.error .dividerTableExhausted)] }))

/-- CLKSEL with the table exhausted hands back DIVIDER_TABLE_EXHAUSTED and makes no transaction (R132). -/
def Obligations.ClkselExhaustedChangesNothing : Prop :=
  ∀ (s : State) (ref req : Nat), s.params.refHz = some ref → s.params.reqHz = some req →
    hasZeroDivisor s.params.clktab = false → selectDivider ref req s.params.clktab = none →
    exec .clksel s = .next { s with trace := s.trace ++ [.done s.cur (.error .dividerTableExhausted)] }

/-- PORTW writes the port-width byte, reads it back, and hands back ok or PORT_WIDTH_READBACK_MISMATCH; the write is not undone. The byte's low
nibble is the number of input ports, its high nibble the number of output ports (R134, R135). With a count absent or above 64 it writes,
reads back and compares all the same, the byte and its read-back being the model's (log entries 11 and 19). -/
def Obligations.PortwWritesAndChecks : Prop :=
  (∀ s : State, s.quiet →
    ∃ (v rb : Byte) (n : Nat),
      exec .portw s = .next { s with
        portcfg := v, portWritten := true, draws := n
        trace := s.trace ++ [.write s.cur .portcfg (v.setWidth 16), .read s.cur .portcfg (rb.setWidth 16),
          .done s.cur (if rb = v then .ok else .error .portWidthReadbackMismatch)] }) ∧
  (∀ (s : State) (nin nout : Nat), s.quiet → s.params.nin = some nin → s.params.nout = some nout → nin ≤ 64 → nout ≤ 64 →
    ∃ v : Byte,
      (v.extractLsb' 0 4).toNat = (nin + 7) / 8 ∧ (v.extractLsb' 4 4).toNat = (nout + 7) / 8 ∧
      exec .portw s = .next { s with
        portcfg := v, portWritten := true
        trace := s.trace ++ [.write s.cur .portcfg (v.setWidth 16),
          .read s.cur .portcfg ((portReadback s.params v).setWidth 16),
          .done s.cur (if portReadback s.params v = v then .ok else .error .portWidthReadbackMismatch)] } ∧
      (s.params.portReadback = [] → portReadback s.params v = v))

/-- IFEN reads CTRL and writes it back with bit 7 the enable, bits 2:1 periodic and the other bits as read (R136). -/
def Obligations.IfenRewritesCtrl : Prop :=
  ∀ (s : State) (en : Bool), s.quiet →
    ∃ (r c : Byte) (n : Nat),
      exec (.ifen en) s = .next { s with
        ctrl := c, draws := n
        trace := s.trace ++ [.read s.cur .ctrl (r.setWidth 16), .write s.cur .ctrl (c.setWidth 16), .done s.cur .ok] } ∧
      c.getLsbD 7 = en ∧ c.extractLsb' 1 2 = s.params.rdModePeriodic ∧ c &&& 0x79 = r &&& 0x79 ∧
      r &&& 0x86 = s.ctrl &&& 0x86 ∧ (s.params.reservedBits = .stored → r = s.ctrl ∧ n = s.draws)

/-- INIT that meets no error programs the divider, the port widths and the interface enable, in six transactions, and brings the device up
(R139). -/
def Obligations.InitBringsTheDeviceUp : Prop :=
  ∀ (s : State) (nin nout ref req : Nat) (sel : BitVec 4), s.quiet → s.devstate = .down →
    s.params.nin = some nin → s.params.nout = some nout → s.params.reqHz = some req → s.params.refHz = some ref →
    nin ≤ 64 → nout ≤ 64 → hasZeroDivisor s.params.clktab = false → selectDivider ref req s.params.clktab = some sel →
    portReadback s.params (portByte s.params) = portByte s.params →
    ∃ (old c r k : Byte) (n : Nat),
      exec .init s = .next { s with
        clkcfg := c, portcfg := portByte s.params, portWritten := true, ctrl := k, devstate := .up, draws := n
        trace := s.trace ++ [.read s.cur .clkcfg (old.setWidth 16), .write s.cur .clkcfg (c.setWidth 16),
          .write s.cur .portcfg ((portByte s.params).setWidth 16), .read s.cur .portcfg ((portByte s.params).setWidth 16),
          .read s.cur .ctrl (r.setWidth 16), .write s.cur .ctrl (k.setWidth 16), .done s.cur .ok] } ∧
      c.extractLsb' 0 4 = sel ∧ c.extractLsb' 4 4 = old.extractLsb' 4 4 ∧
      old.extractLsb' 4 2 = s.clkcfg.extractLsb' 4 2 ∧
      k.getLsbD 7 = true ∧ k.extractLsb' 1 2 = s.params.rdModePeriodic ∧ k &&& 0x79 = r &&& 0x79 ∧ r &&& 0x86 = s.ctrl &&& 0x86 ∧
      (s.params.reservedBits = .stored → old = s.clkcfg ∧ r = s.ctrl ∧ n = s.draws)

/-- INIT that fails before it touches the hardware hands back the first error that applies, in the order of R211, and changes nothing else
(R139, R140). -/
def Obligations.InitFailsBeforeTheHardware : Prop :=
  ∀ s : State, s.devstate = .down → hasZeroDivisor s.params.clktab = false →
    let fails (e : Err) := exec .init s = .next { s with trace := s.trace ++ [.done s.cur (.error e)] }
    ((s.params.nin = none ∨ s.params.nout = none ∨ s.params.reqHz = none) → fails .propertyUnreadable) ∧
    (∀ nin nout req, s.params.nin = some nin → s.params.nout = some nout → s.params.reqHz = some req →
      (64 < nin ∨ 64 < nout → fails .lineCountExceedsMax) ∧
      (nin ≤ 64 → nout ≤ 64 →
        (s.params.refHz = none → fails .clockReferenceMissing) ∧
        (∀ ref, s.params.refHz = some ref → selectDivider ref req s.params.clktab = none → fails .dividerTableExhausted)))

/-- INIT whose port-width read-back differs: CLKCFG and PORTCFG are written, of CLKCFG only bits 3:0 change (its undescribed bits 7:6 when
they are stored), CTRL is not written, the device stays down (R140). -/
def Obligations.InitReadbackMismatchLeavesTheDeviceDown : Prop :=
  ∀ (s : State) (nin nout ref req : Nat) (sel : BitVec 4), s.quiet → s.devstate = .down →
    s.params.nin = some nin → s.params.nout = some nout → s.params.reqHz = some req → s.params.refHz = some ref →
    nin ≤ 64 → nout ≤ 64 → hasZeroDivisor s.params.clktab = false → selectDivider ref req s.params.clktab = some sel →
    portReadback s.params (portByte s.params) ≠ portByte s.params →
    ∃ (old c : Byte) (n : Nat),
      exec .init s = .next { s with
        clkcfg := c, portcfg := portByte s.params, portWritten := true, draws := n
        trace := s.trace ++ [.read s.cur .clkcfg (old.setWidth 16), .write s.cur .clkcfg (c.setWidth 16),
          .write s.cur .portcfg ((portByte s.params).setWidth 16),
          .read s.cur .portcfg ((portReadback s.params (portByte s.params)).setWidth 16),
          .done s.cur (.error .portWidthReadbackMismatch)] } ∧
      c.extractLsb' 0 4 = sel ∧ c.extractLsb' 4 4 = old.extractLsb' 4 4 ∧
      old.extractLsb' 4 2 = s.clkcfg.extractLsb' 4 2 ∧
      (s.params.reservedBits = .stored → old = s.clkcfg ∧ n = s.draws)

/-- A second INIT is refused, and so are INIT and CLKSEL with a table that holds a divisor of 0 (R139, R138). That the second INIT is refused as
such first, and that the table is refused before any error of INIT (an absent property, a count above 64), is the model's deduction from R211
(DEDUCED, log entry 12). -/
def Obligations.InitRefusals : Prop :=
  ∀ s : State,
    (s.devstate = .up → exec .init s = .refused .initTwice) ∧
    (hasZeroDivisor s.params.clktab = true →
      exec .clksel s = .refused .zeroDivisor ∧ (s.devstate = .down → exec .init s = .refused .zeroDivisor))

/-! ### The line index mapper and the line I/O engine -/

/-- The mapper: the bank and bit of a position (R120), the direction of a line (R121), and what a line is valid for (R125). -/
def Obligations.LineIndexMapper : Prop :=
  (∀ p, p < 64 → bankOf p = p / 8 ∧ bitOf p = p % 8 ∧ bankOf p ≤ 7 ∧ bitOf p ≤ 7 ∧ p = 8 * bankOf p + bitOf p) ∧
  (∀ (q : Params) (o : Nat), o < q.noutN + q.ninN →
    (isOutput q o = true ↔ o < q.noutN) ∧ (isInput q o = true ↔ q.noutN ≤ o)) ∧
  (∀ (q : Params) (o : Nat),
    (o < q.noutN → validLine q o = .outputUse) ∧ (q.noutN ≤ o → o < q.noutN + q.ninN → validLine q o = .inputUse) ∧
    (q.noutN + q.ninN ≤ o → validLine q o = .invalid))

/-- The dispatcher's line number of bank `b`, bit `k` (R187): the number of the input line with input-relative offset `8*b + k`, the inverse of
the input coordinates; it ranges from NOUT to NOUT + 63. -/
def Obligations.LineNumberInvertsInputCoordinates : Prop :=
  ∀ (q : Params) (b k : Nat), b < 8 → k < 8 →
    vline q b k = b * 8 + q.noutN + k ∧ q.noutN ≤ vline q b k ∧ vline q b k ≤ q.noutN + 63 ∧
    (8 * b + k < q.ninN → isInput q (vline q b k) = true ∧ rel q (vline q b k) = 8 * b + k ∧ inCoord q (vline q b k) = (b, k))

/-- Requests with no meaning are refused: any line, interrupt or dispatch operation while the device is down; a line out of range; an output
line given to an interrupt operation (R32, R155, R165). -/
def Obligations.MeaninglessRequestsAreRefused : Prop :=
  ∀ (s : State) (o : Nat) (d : Direction) (v : Bool) (t : BitVec 4),
    let lineOps := [Instr.dirget o, .dirset o d, .dirout o v, .get o, .set o v]
    let chipOps := [Instr.settype o t, .mask o, .unmask o, .ack o]
    (s.devstate = .down → ∀ i ∈ Instr.dispatch :: lineOps ++ chipOps, exec i s = .refused .deviceDown) ∧
    (s.devstate = .up → s.params.noutN + s.params.ninN ≤ o →
      ∀ i ∈ lineOps ++ chipOps, exec i s = .refused .lineOutOfRange) ∧
    (s.devstate = .up → o < s.params.noutN → ∀ i ∈ chipOps, exec i s = .refused .outputLine)

/-- DIRGET, whose word is `0x4000 | o`, hands back 0 for an output line and 1 for an input line, with no transaction (R150). -/
def Obligations.DirgetTellsTheDirection : Prop :=
  (∀ o, o < 128 → encode (.dirget o) = .opw (0x4000 ||| BitVec.ofNat 16 o)) ∧
  ∀ (s : State) (o : Nat), s.devstate = .up → o < s.params.noutN + s.params.ninN →
    exec (.dirget o) s = .next { s with
      trace := s.trace ++ [.done s.cur (.value (if o < s.params.noutN then 0 else 1))] }

/-- DIRSET, whose word is `0x5000 | (d << 8) | o`, succeeds for the direction the line has and is DIRECTION_MISMATCH for the other; either way
nothing else changes (R151). -/
def Obligations.DirsetAcceptsOnlyTheFixedDirection : Prop :=
  (∀ o, o < 128 → encode (.dirset o .output) = .opw (0x5000 ||| BitVec.ofNat 16 o) ∧
    encode (.dirset o .input) = .opw (0x5000 ||| 0x0100 ||| BitVec.ofNat 16 o)) ∧
  ∀ (s : State) (o : Nat), s.devstate = .up → o < s.params.noutN + s.params.ninN →
    exec (.dirset o .output) s = .next { s with
      trace := s.trace ++ [.done s.cur (if o < s.params.noutN then .ok else .error .directionMismatch)] } ∧
    exec (.dirset o .input) s = .next { s with
      trace := s.trace ++ [.done s.cur (if o < s.params.noutN then .error .directionMismatch else .ok)] }

/-- SET and DIROUT on an output line: one read and one write of its WDATA byte, in which the line's bit becomes `v` and the other seven bits
are as read (R152, R154). -/
def Obligations.SetAndDiroutDriveOneBit : Prop :=
  ∀ (s : State) (o : Nat) (v : Bool) (i : Instr), s.quiet → s.devstate = .up → o < s.params.noutN → s.params.noutN ≤ 64 →
    i ∈ [Instr.set o v, .dirout o v] →
    ∃ new : Byte,
      exec i s = .next { s with
        wdata := putEntry s.wdata (o / 8) new
        trace := s.trace ++ [.read s.cur (.bank .wdata (o / 8)) ((entry s.wdata (o / 8)).setWidth 16),
          .write s.cur (.bank .wdata (o / 8)) (new.setWidth 16), .done s.cur .ok] } ∧
      ∀ j, j < 8 → new.getLsbD j = if j = o % 8 then v else (entry s.wdata (o / 8)).getLsbD j

/-- SET and DIROUT on an input line hand back DIRECTION_MISMATCH, with no transaction and no other change (R152, R154). -/
def Obligations.DrivingAnInputLineIsRejected : Prop :=
  ∀ (s : State) (o : Nat) (v : Bool) (i : Instr), s.devstate = .up → s.params.noutN ≤ o →
    o < s.params.noutN + s.params.ninN → i ∈ [Instr.set o v, .dirout o v] →
    exec i s = .next { s with trace := s.trace ++ [.done s.cur (.error .directionMismatch)] }

/-- GET, whose word is `0x7000 | o`, makes exactly one 8-bit read, of WDATA for an output line and of RDATA for an input line, and hands back
the line's bit (R153). -/
def Obligations.GetReadsTheLine : Prop :=
  (∀ o, o < 128 → encode (.get o) = .opw (0x7000 ||| BitVec.ofNat 16 o)) ∧
  ∀ (s : State) (o : Nat), s.quiet → s.devstate = .up → s.params.noutN ≤ 64 → s.params.ninN ≤ 64 →
    (o < s.params.noutN →
      let r := entry s.wdata (o / 8)
      exec (.get o) s = .next { s with
        trace := s.trace ++ [.read s.cur (.bank .wdata (o / 8)) (r.setWidth 16),
          .done s.cur (.value (if r.getLsbD (o % 8) then 1 else 0))] }) ∧
    (s.params.noutN ≤ o → o < s.params.noutN + s.params.ninN →
      let i := o - s.params.noutN
      let r := entry s.rdata (i / 8)
      exec (.get o) s = .next { s with
        trace := s.trace ++ [.read s.cur (.bank .rdata (i / 8)) (r.setWidth 16),
          .done s.cur (.value (if r.getLsbD (i % 8) then 1 else 0))] })

/-- Round trip: an undisturbed SET of an output line followed by GET of it gives the level back (R156). -/
def Obligations.SetThenGetGivesTheLevel : Prop :=
  ∀ (s : State) (o : Nat) (v : Bool), s.quiet → s.devstate = .up → o < s.params.noutN → s.params.noutN ≤ 64 →
    ∃ t u r, exec (.set o v) s = .next t ∧ exec (.get o) t = .next u ∧
      u.trace = t.trace ++ [.read s.cur (.bank .wdata (o / 8)) r, .done s.cur (.value (if v then 1 else 0))]

/-- Sibling isolation of the outputs: an undisturbed SET changes the level of no other position (R157). -/
def Obligations.SetLeavesOtherOutputsAlone : Prop :=
  ∀ (s t : State) (o : Nat) (v : Bool), s.quiet → s.devstate = .up → o < s.params.noutN → s.params.noutN ≤ 64 →
    exec (.set o v) s = .next t → ∀ p, p < 64 → outPin t p = if p = o then v else outPin s p

/-- The unlocked read-modify-write of WDATA: from a machine with no output made, no operation in progress, and nothing to do but two SETs of one
bank, one in each of its two contexts, two steps take both requests and end both operations with ok, and the first one's update is lost (R64,
R236; 95_test_vectors.md P6). -/
def Obligations.InterleavedSetsCanLoseAnUpdate : Prop :=
  ∃ s s₁ s₂ : State, s.Sound ∧ s.trace = [] ∧
    s.ctxs = [⟨[.issue (encode (.set 1 true))], []⟩, ⟨[.issue (encode (.set 2 true))], []⟩] ∧
    step s = .next s₁ ∧ step s₁ = .next s₂ ∧ s₂.ctxs = [⟨[], []⟩, ⟨[], []⟩] ∧
    .done 0 .ok ∈ s₂.trace ∧ .done 1 .ok ∈ s₂.trace ∧ outPin s₂ 1 = false ∧ outPin s₂ 2 = true

/-- After an InvalidArgument error no state of any kind has changed, no bus transaction was made and no lock was taken, whichever instruction
ended with it and whoever else was to move inside it: the error is its only output (R200, R202). -/
def Obligations.InvalidArgumentChangesNothing : Prop :=
  ∀ (i : Instr) (s t : State) (c : Nat) (e : Err), exec i s = .next t → .done c (.error e) ∈ t.trace.drop s.trace.length →
    e.errClass = .invalidArgument → t = { s with trace := s.trace ++ [.done s.cur (.error e)] }

/-! ### The interrupt chip -/

/-- The slot functions read and place a line's two bits and leave every other slot alone (R75; R167, R170, R171). -/
def Obligations.SlotsAreIndependent : Prop :=
  ∀ (w : Half) (k j : Nat) (c : Code), k < 8 → j < 8 →
    slotGet (slotIns c k) j = (if j = k then c else 0) ∧
    slotGet (w ||| slotIns c k) j = (if j = k then slotGet w j ||| c else slotGet w j) ∧
    slotGet (w &&& ~~~slotMask k) j = (if j = k then 0 else slotGet w j)

/-- The five supported trigger types, their codes and strategies; SETTYPE with any other type hands back UNSUPPORTED_TRIGGER_TYPE, whether the
lock is free or held, and changes nothing (R166). -/
def Obligations.TriggerTypesMapToCodes : Prop :=
  triggerOf 0b0001 = some (0b01, .edge) ∧ triggerOf 0b0010 = some (0b10, .edge) ∧ triggerOf 0b0011 = some (0b11, .edge) ∧
  triggerOf 0b0100 = some (0b01, .level) ∧ triggerOf 0b1000 = some (0b10, .level) ∧
  ∀ t : BitVec 4, t.toNat ∉ [1, 2, 3, 4, 8] → triggerOf t = none ∧
    ∀ (s : State) (l : Nat), s.devstate = .up → s.params.noutN ≤ l → l < s.params.noutN + s.params.ninN →
      exec (.settype l t) s = .next { s with trace := s.trace ++ [.done s.cur (.error .unsupportedTriggerType)] }

/-- SETTYPE with a supported type: TYPE and STRAT of the line, its slot ORed with the code inside an enable bracket, six transactions, the
lock free again; nothing else (R167). -/
def Obligations.SettypeMergesTheCode : Prop :=
  ∀ (s : State) (l : Nat) (t : BitVec 4) (c : Code) (st : Strategy), s.quiet → s.devstate = .up → s.lock = .free →
    s.params.noutN ≤ l → l < s.params.noutN + s.params.ninN → s.params.ninN ≤ 64 → triggerOf t = some (c, st) →
    let i := l - s.params.noutN
    let w := entry s.evcfg (i / 8)
    let w' := w ||| slotIns c (i % 8)
    ∃ (r₁ c₁ r₂ c₂ : Byte) (n : Nat), BracketCtrl s r₁ c₁ r₂ c₂ n ∧
      exec (.settype l t) s = .next { s with
        trigType := putEntry s.trigType i c, strat := putEntry s.strat i st
        evcfg := putEntry s.evcfg (i / 8) w', ctrl := c₂, draws := n
        trace := s.trace ++ [.read s.cur .ctrl (r₁.setWidth 16), .write s.cur .ctrl (c₁.setWidth 16),
          .read s.cur (.bank .evcfg (i / 8)) w, .write s.cur (.bank .evcfg (i / 8)) w',
          .read s.cur .ctrl (r₂.setWidth 16), .write s.cur .ctrl (c₂.setWidth 16), .done s.cur .ok] }

/-- MASK: the line's slot becomes 0b00 inside an enable bracket, then exactly its status bit is cleared; seven transactions (R170). -/
def Obligations.MaskClearsSlotAndStatus : Prop :=
  ∀ (s : State) (l : Nat), s.quiet → s.devstate = .up → s.lock = .free →
    s.params.noutN ≤ l → l < s.params.noutN + s.params.ninN → s.params.ninN ≤ 64 →
    let i := l - s.params.noutN
    let w := entry s.evcfg (i / 8)
    let w' := w &&& ~~~slotMask (i % 8)
    let bit := (1 : Byte) <<< (i % 8)
    ∃ (r₁ c₁ r₂ c₂ : Byte) (n : Nat), BracketCtrl s r₁ c₁ r₂ c₂ n ∧
      exec (.mask l) s = .next { s with
        evcfg := putEntry s.evcfg (i / 8) w', evsts := putEntry s.evsts (i / 8) (entry s.evsts (i / 8) &&& ~~~bit)
        ctrl := c₂, draws := n
        trace := s.trace ++ [.read s.cur .ctrl (r₁.setWidth 16), .write s.cur .ctrl (c₁.setWidth 16),
          .read s.cur (.bank .evcfg (i / 8)) w, .write s.cur (.bank .evcfg (i / 8)) w',
          .read s.cur .ctrl (r₂.setWidth 16), .write s.cur .ctrl (c₂.setWidth 16),
          .write s.cur (.bank .evsts (i / 8)) (bit.setWidth 16), .done s.cur .ok] }

/-- UNMASK: the line's slot becomes TYPE, or is ORed with it, by UNMASK_MERGE, inside an enable bracket, then exactly its status bit is
cleared; seven transactions (R171). -/
def Obligations.UnmaskRestoresSlotAndClearsStatus : Prop :=
  ∀ (s : State) (l : Nat), s.quiet → s.devstate = .up → s.lock = .free →
    s.params.noutN ≤ l → l < s.params.noutN + s.params.ninN → s.params.ninN ≤ 64 →
    let i := l - s.params.noutN
    let w := entry s.evcfg (i / 8)
    let kept := match s.params.unmaskMerge with
      | .replace => w &&& ~~~slotMask (i % 8)
      | .or => w
    let w' := kept ||| slotIns (entry s.trigType i) (i % 8)
    let bit := (1 : Byte) <<< (i % 8)
    ∃ (r₁ c₁ r₂ c₂ : Byte) (n : Nat), BracketCtrl s r₁ c₁ r₂ c₂ n ∧
      exec (.unmask l) s = .next { s with
        evcfg := putEntry s.evcfg (i / 8) w', evsts := putEntry s.evsts (i / 8) (entry s.evsts (i / 8) &&& ~~~bit)
        ctrl := c₂, draws := n
        trace := s.trace ++ [.read s.cur .ctrl (r₁.setWidth 16), .write s.cur .ctrl (c₁.setWidth 16),
          .read s.cur (.bank .evcfg (i / 8)) w, .write s.cur (.bank .evcfg (i / 8)) w',
          .read s.cur .ctrl (r₂.setWidth 16), .write s.cur .ctrl (c₂.setWidth 16),
          .write s.cur (.bank .evsts (i / 8)) (bit.setWidth 16), .done s.cur .ok] }

/-- ACK clears exactly the line's status bit, with one write and no other change (R172). -/
def Obligations.AckClearsOneStatusBit : Prop :=
  ∀ (s : State) (l : Nat), s.quiet → s.devstate = .up → s.lock = .free →
    s.params.noutN ≤ l → l < s.params.noutN + s.params.ninN → s.params.ninN ≤ 64 →
    let i := l - s.params.noutN
    let bit := (1 : Byte) <<< (i % 8)
    exec (.ack l) s = .next { s with
      evsts := putEntry s.evsts (i / 8) (entry s.evsts (i / 8) &&& ~~~bit)
      trace := s.trace ++ [.write s.cur (.bank .evsts (i / 8)) (bit.setWidth 16), .done s.cur .ok] }

/-- Mask and unmask idempotence: after MASK the slot is 0b00; a second UNMASK leaves the event-config registers as the first left them
(R174). -/
def Obligations.MaskAndUnmaskAreIdempotent : Prop :=
  ∀ (s : State) (l : Nat), s.quiet → s.devstate = .up → s.lock = .free →
    s.params.noutN ≤ l → l < s.params.noutN + s.params.ninN → s.params.ninN ≤ 64 →
    (∃ t, exec (.mask l) s = .next t ∧ masked t (l - s.params.noutN) = true) ∧
    (∃ t u, exec (.unmask l) s = .next t ∧ exec (.unmask l) t = .next u ∧ u.evcfg = t.evcfg)

/-- Sibling isolation whatever the sampler does inside the operation: SETTYPE, MASK and UNMASK complete, release the lock, and leave the slot,
the stored type and the strategy of every other position as they were (R173). -/
def Obligations.SiblingsAreIsolatedUnderTheSampler : Prop :=
  ∀ (s : State) (l : Nat) (ty : BitVec 4) (i : Instr), onlySampler s.cur s.turns = true → s.devstate = .up →
    s.lock = .free → s.params.noutN ≤ l → l < s.params.noutN + s.params.ninN → s.params.ninN ≤ 64 →
    ty.toNat ∈ [1, 2, 3, 4, 8] → i ∈ [Instr.settype l ty, .mask l, .unmask l] →
    ∃ t, exec i s = .next t ∧ t.lock = .free ∧ (∃ tr, t.trace = s.trace ++ tr ++ [.done s.cur .ok]) ∧
      ∀ p, p < 64 → p ≠ l - s.params.noutN →
        slotAt t p = slotAt s p ∧ entry t.trigType p = entry s.trigType p ∧ stratEntry t.strat p = stratEntry s.strat p

/-- A context that asks for the lock while it is held waits: the whole locked operation is in progress, its acquisition next, and no register, no
shadow state and no output has changed (R61, R165). When its context moves again the operation runs as if it were issued then. And an operation
in progress that was set aside, undisturbed and not held up by the lock, by a handler or by a delivery still to make, ends at its context's next
step, hands back a result, and leaves the lock free if it had or took it. -/
def Obligations.LockedOperationsWaitForTheLock : Prop :=
  (∀ (s : State) (d l : Nat) (ty : BitVec 4) (c : Code) (st : Strategy), s.quiet → s.devstate = .up → s.lock = .held d →
    s.params.noutN ≤ l → l < s.params.noutN + s.params.ninN → triggerOf ty = some (c, st) →
    let i := l - s.params.noutN
    let waiting (steps : List Micro) := pushFrame s.cur ⟨0, steps, .ok, false⟩ s
    exec (.settype l ty) s = .next (waiting (settypeSteps i c st)) ∧ exec (.mask l) s = .next (waiting (maskSteps i)) ∧
    exec (.unmask l) s = .next (waiting (unmaskSteps i)) ∧ exec (.ack l) s = .next (waiting (ackSteps i))) ∧
  (∀ (s : State) (l : Nat) (ty : BitVec 4) (c : Code) (st : Strategy) (below : List Frame), s.fault = [] → s.agenda = [] →
    (∀ q, (ctxAt s s.cur).requests ≠ .interrupt :: q) → s.devstate = .up →
    s.params.noutN ≤ l → l < s.params.noutN + s.params.ninN → triggerOf ty = some (c, st) →
    let i := l - s.params.noutN
    let waited (steps : List Micro) := (ctxAt s s.cur).stack = ⟨0, steps, .ok, false⟩ :: below
    let resumed := setStack s.cur below s
    (waited (settypeSteps i c st) → step s = exec (.settype l ty) resumed) ∧ (waited (maskSteps i) → step s = exec (.mask l) resumed) ∧
    (waited (unmaskSteps i) → step s = exec (.unmask l) resumed) ∧ (waited (ackSteps i) → step s = exec (.ack l) resumed)) ∧
  (∀ (s : State) (f : Frame) (below : List Frame), s.fault = [] → s.agenda = [] → s.quiet →
    (∀ q, (ctxAt s s.cur).requests ≠ .interrupt :: q) → (ctxAt s s.cur).stack = f :: below → f.inHandler = false →
    f.Sound s.params → (.acquire ∈ f.todo → s.lock = .free ∨ f.insideLock = true) → (∀ b k, .scan b k ∉ f.todo) →
    ∃ (t : State) (r : Result) (e : List Event), step s = .next t ∧ (ctxAt t s.cur).stack = below ∧
      t.trace = s.trace ++ e ++ [.done s.cur r] ∧
      t.lock = if f.insideLock = true ∨ .acquire ∈ f.todo then .free else s.lock)

/-! ### The dispatcher and the sampler -/

/-- A pass with nothing pending reads the eight status registers in ascending order and ends (R186, R188). -/
def Obligations.EmptyPassReadsAllBanks : Prop :=
  ∀ s : State, s.quiet → s.devstate = .up → (∀ b, b < 8 → entry s.evsts b = 0) →
    exec .dispatch s = .next { s with
      trace := s.trace ++ (List.range 8).map (fun b => .read s.cur (.bank .evsts b) 0) ++ [.done s.cur .ok] }

/-- A pass with something pending reads the banks up to that of the lowest pending position, delivers its line, and waits for the handler at that
scan position, with that snapshot and the rest of the scan still to do; it clears nothing (R186, R187, R188, R193, R43). -/
def Obligations.PassDeliversTheLowestPendingFirst : Prop :=
  ∀ (s : State) (b k : Nat), s.quiet → s.devstate = .up → b < 8 → k < 8 →
    (∀ b', b' < b → entry s.evsts b' = 0) → (∀ k', k' < k → (entry s.evsts b).getLsbD k' = false) →
    (entry s.evsts b).getLsbD k = true →
    let f : Frame := ⟨(entry s.evsts b).setWidth 16, dispatchSteps.drop (9 * b + k + 1), .ok, true⟩
    exec .dispatch s = .next (pushFrame s.cur f
      { s with
        trace := s.trace ++ (List.range b).map (fun b' => .read s.cur (.bank .evsts b') 0) ++
          [.read s.cur (.bank .evsts b) ((entry s.evsts b).setWidth 16),
            .deliver s.cur (b * 8 + s.params.noutN + k)] }) ∧
    f.scanPosition = some (b, k) ∧ f.snapshot = some (entry s.evsts b)

/-- Dispatcher completeness: a pass whose handlers return at once delivers every pending line exactly once, in ascending bank-then-bit order,
between the eight reads, clears nothing, and ends (R186, R188, R192). That the run takes one step to begin and one for each handler's return is
the form in which the model has a pass wait for its handlers (DEDUCED, log entry 7). -/
def Obligations.PassDeliversEveryPendingLineInOrder : Prop :=
  ∀ (s : State) (q : List Request) (stack : List Frame),
    s.quiet → s.fault = [] → s.agenda = [] → s.devstate = .up → busy s.cur s = false →
    s.ctxs[s.cur]? = some ⟨.issue (.opw 0xD000) :: (List.replicate (pendingCount s) .handlerReturn ++ q), stack⟩ →
    Sys2Proof.core.run (pendingCount s + 1) s = .next { s with
      ctxs := s.ctxs.set s.cur ⟨q, stack⟩
      trace := s.trace ++ passTrace s.cur s ++ [.done s.cur .ok] }

/-- A step of the enabled sampler in periodic mode: every position is sampled, and its status bit is set exactly when it was set or a
transition its slot selects happened; nothing else changes (R190). -/
def Obligations.SamplerLatchesSelectedTransitions : Prop :=
  ∀ (s : State) (inp : Lines), s.ctrl.getLsbD 7 = true → s.ctrl.extractLsb' 1 2 = s.params.rdModePeriodic →
    s.params.sampler = .exact →
    ∃ rd st : Vector Byte 8, sample inp s = { s with rdata := rd, evsts := st } ∧
      ∀ b k, b < 8 → k < 8 →
        let old := (entry s.rdata b).getLsbD k
        let new := inp.getLsbD (8 * b + k)
        (entry rd b).getLsbD k = new ∧
        ((entry st b).getLsbD k = true ↔
          (entry s.evsts b).getLsbD k = true ∨
          (old = false ∧ new = true ∧ (entry s.evcfg b).getLsbD (2 * k) = true) ∨
          (old = true ∧ new = false ∧ (entry s.evcfg b).getLsbD (2 * k + 1) = true))

/-- A step of the machine whose turn is the sampler's is the sampler's step (R185, R190). Whichever sampler is in force, it takes no step while the
interface is disabled, clears no status bit, sets none whose slot is 0b00, and changes nothing but RDATA and EVSTS (R190, R191, R194). -/
def Obligations.EverySamplerKeepsItsBounds : Prop :=
  ∀ (s : State) (inp : Lines),
    (∀ q, s.fault = [] → s.agenda = .sampler inp :: q → step s = .next (sample inp { s with agenda := q })) ∧
    (s.ctrl.getLsbD 7 = false → sample inp s = s) ∧
    (∃ (rd st : Vector Byte 8) (n : Nat), sample inp s = { s with rdata := rd, evsts := st, draws := n }) ∧
    ∀ p, p < 64 → (pending s p = true → pending (sample inp s) p = true) ∧
      (slotAt s p = 0 → pending (sample inp s) p = pending s p)

/-- The parent interrupt line is 1 exactly when some bit of some status register is 1 (R34). -/
def Obligations.ParentInterruptIsTheOrOfStatus : Prop :=
  ∀ s : State, irq s = true ↔ ∃ p, p < 64 ∧ pending s p = true

/-- Taking the parent interrupt: with IRQ = 1 in a context that does not hold the lock, even one with an operation in progress, the step is a
DISPATCH and entry changes nothing else; with IRQ = 0 there is none to take; in the context that holds the lock its locked body goes on
and the interrupt stays to be taken (R61, R189, R212, R215). -/
def Obligations.InterruptEntryIsADispatch : Prop :=
  ∀ (s : State) (q : List Request), s.fault = [] → s.agenda = [] → (ctxAt s s.cur).requests = .interrupt :: q →
    (s.lock ≠ .held s.cur → irq s = true → step s = exec .dispatch (setRequests s.cur q s)) ∧
    (s.lock ≠ .held s.cur → irq s = false → step s = .next (setRequests s.cur q s)) ∧
    (s.lock = .held s.cur → step s = .next (resume s.cur s))

/-! ### Invariants -/

/-- Reset is sound, for all parameters and every draw. -/
def Obligations.ResetIsSound : Prop :=
  ∀ (p : Params) (d : ResetDraw), (State.resetWith p d).Sound

/-- Every step from a sound state leads to a sound state: no programming-logic fault can happen, the device is up only with accepted
parameters, and the lock is held exactly by the one operation in progress that is inside a locked body. -/
def Obligations.StepKeepsSoundness : Prop :=
  ∀ s t : State, s.Sound → step s = .next t → t.Sound

/-- No instruction, in whatever state it runs, changes the parameters, brings the device down, or takes a record out of FAULT or an output out of
the trace (R7, R37, R233); nor does a step of the machine change the parameters, bring the device down or take an output out of the trace. -/
def Obligations.StepKeepsParametersAndRecords : Prop :=
  (∀ (i : Instr) (s t : State), exec i s = .next t →
    t.params = s.params ∧ (s.devstate = .up → t.devstate = .up) ∧ (∃ f, t.fault = s.fault ++ f) ∧ (∃ e, t.trace = s.trace ++ e)) ∧
  (∀ s t : State, step s = .next t →
    t.params = s.params ∧ (s.devstate = .up → t.devstate = .up) ∧ (∃ e, t.trace = s.trace ++ e))

/-- Only the sampler samples or sets a status bit: a step in which it takes no step, whatever every context does in it, leaves RDATA as it was
and sets no status bit (R22, R24). -/
def Obligations.OnlyTheSamplerSetsStatus : Prop :=
  ∀ s t : State, s.samplerIdle = true → step s = .next t →
    t.rdata = s.rdata ∧ ∀ p, pending t p = true → pending s p = true
end

