-- ==== Sys2Proof/Laws/Decode.lean ====
section
/-! SUPPORT. What decoding gives. -/

namespace Sys2Proof

/-- The instruction a word decodes to fits its encoding. -/
theorem wellFormed_of_decode {w : HostWord} {i : Instr} (h : decode w = .ok i) : i.wellFormed = true := by
  cases w with
  | opw w =>
    have hl : ∀ f : OpFields, f.line.toNat < 128 := fun f => f.line.isLt
    simp only [decode, decodeOpw, decodeFields, takesNothing, takesLine, takesBitAndLine] at h
    repeat' split at h
    all_goals cases h
    all_goals first | rfl | simp [Instr.wellFormed, lineFits, hl]
  | busw w =>
    simp only [decode, decodeBusw, decodeRequest, decodeHalf, decodeByte, takesByte] at h
    repeat' split at h
    all_goals cases h
    all_goals first | rfl | (simp [Instr.wellFormed, bankFits] at *; omega)

end Sys2Proof
end

