-- ==== Sys2Proof/Laws/Operands.lean ====
section
/-! SUPPORT. What the operand and flag operations do, bit by bit and entry by entry. -/

namespace Sys2Proof.Machine

/-! ### Entries of a register array -/

/-- Reading an entry after replacing one. -/
theorem entry_putEntry {n w : Nat} (v : Vector (BitVec w) n) (i j : Nat) (x : BitVec w) :
    entry (putEntry v i x) j = if i = j ∧ i < n then x else entry v j := by
  unfold entry putEntry
  rw [Vector.getElem?_setIfInBounds]
  by_cases h : i = j
  · subst h
    by_cases hi : i < n
    · simp [hi]
    · simp [hi]
  · simp [h]

/-- The entry just replaced. -/
theorem entry_putEntry_same {n w : Nat} (v : Vector (BitVec w) n) (i : Nat) (x : BitVec w) (h : i < n) :
    entry (putEntry v i x) i = x := by
  rw [entry_putEntry, if_pos ⟨rfl, h⟩]

/-- Another entry than the one replaced. -/
theorem entry_putEntry_other {n w : Nat} (v : Vector (BitVec w) n) (i j : Nat) (x : BitVec w) (h : i ≠ j) :
    entry (putEntry v i x) j = entry v j := by
  rw [entry_putEntry, if_neg (fun hc => h hc.1)]

/-- Replacing an entry twice. -/
theorem putEntry_putEntry {α : Type} {n : Nat} (v : Vector α n) (i : Nat) (x y : α) :
    putEntry (putEntry v i x) i y = putEntry v i y := by
  unfold putEntry
  ext j hj
  simp only [Vector.getElem_setIfInBounds]
  split <;> rfl

/-- Replacing an entry by what it holds. -/
theorem putEntry_entry {n w : Nat} (v : Vector (BitVec w) n) (i : Nat) : putEntry v i (entry v i) = v := by
  unfold putEntry entry
  ext j hj
  simp only [Vector.getElem_setIfInBounds]
  split
  · next h => subst h; simp [hj]
  · rfl

/-- Two arrays with the same entries are equal. -/
theorem eq_of_entries {n w : Nat} {u v : Vector (BitVec w) n} (h : ∀ i, i < n → entry u i = entry v i) : u = v := by
  apply Vector.ext
  intro j hj
  have := h j hj
  unfold entry at this
  simpa [hj] using this

/-- An entry of an array given bank by bank. -/
theorem entry_perBank {w : Nat} (f : Nat → BitVec w) (b : Nat) (h : b < 8) : entry (perBank f) b = f b := by
  interval_cases b <;> rfl

/-- A bit of a byte given bit by bit. -/
theorem getLsbD_byteOfBits (f : Nat → Bool) (k : Nat) (h : k < 8) : (byteOfBits f).getLsbD k = f k := by
  unfold byteOfBits
  rw [BitVec.getLsbD_ofBoolListLE]
  interval_cases k <;> rfl

/-- A level of a bank of 64 levels (R14). -/
theorem getLsbD_byteOfLines (x : Lines) (b k : Nat) (h : k < 8) :
    (byteOfLines x b).getLsbD k = x.getLsbD (8 * b + k) := by
  simp [byteOfLines, h]

/-! ### Status bits and data bits -/

/-- The bits of a bit mask (R76). -/
theorem getLsbD_bitMask (k j : Nat) (hk : k < 8) (hj : j < 8) : (bitMask k).getLsbD j = decide (j = k) := by
  have h : ∀ k < 8, ∀ j < 8, (bitMask k).getLsbD j = decide (j = k) := by decide
  exact h k hk j hj

/-- The bits SET writes (R154). -/
theorem getLsbD_setBitValue (r : Byte) (k j : Nat) (v : Bool) (hk : k < 8) (hj : j < 8) :
    (setBitValue r k v).getLsbD j = if j = k then v else r.getLsbD j := by
  unfold setBitValue
  cases v
  · simp only [Bool.false_eq_true, if_false, BitVec.getLsbD_and, BitVec.getLsbD_not, getLsbD_bitMask k j hk hj, hj]
    by_cases h : j = k <;> simp [h]
  · simp only [if_true, BitVec.getLsbD_or, getLsbD_bitMask k j hk hj]
    by_cases h : j = k <;> simp [h]

/-- The status bits left by a write-1-to-clear write (R109). -/
theorem getLsbD_clearWritten (sts v : Byte) (k : Nat) (hk : k < 8) :
    (clearWritten sts v).getLsbD k = (sts.getLsbD k && !v.getLsbD k) := by
  simp [clearWritten, hk]

/-- The status bits after a step of the sampler of R190. -/
theorem getLsbD_latchByte (cfg : Half) (old new sts : Byte) (k : Nat) (hk : k < 8) :
    (latchByte cfg old new sts).getLsbD k =
      (sts.getLsbD k || latches (slotGet cfg k) (old.getLsbD k) (new.getLsbD k)) := by
  unfold latchByte
  rw [getLsbD_byteOfBits _ _ hk]

/-- Which bits of a bank are unmasked (R35). -/
theorem getLsbD_unmaskedBits (cfg : Half) (k : Nat) (hk : k < 8) :
    (unmaskedBits cfg).getLsbD k = decide (slotGet cfg k ≠ 0) := by
  unfold unmaskedBits
  rw [getLsbD_byteOfBits _ _ hk]

/-- A masked position latches nothing (R191). -/
theorem latches_zero (old new : Bool) : latches 0 old new = false := by
  cases old <;> cases new <;> rfl

/-! ### Slots -/

/-- A bit of a slot is a bit of the word (R23, R75). -/
theorem getLsbD_slotGet (w : Half) (k j : Nat) (hj : j < 2) : (slotGet w k).getLsbD j = w.getLsbD (2 * k + j) := by
  simp [slotGet, hj]

/-- A bit of the slot mask (R75). -/
theorem getLsbD_slotMask (k j : Nat) (hk : k < 8) (hj : j < 16) :
    (slotMask k).getLsbD j = decide (j / 2 = k) := by
  have h : ∀ k < 8, ∀ j < 16, (slotMask k).getLsbD j = decide (j / 2 = k) := by decide
  exact h k hk j hj

/-- A bit of a placed code (R75). -/
theorem getLsbD_slotIns (c : Code) (k j : Nat) (hj : j < 16) :
    (slotIns c k).getLsbD j = (decide (j / 2 = k) && c.getLsbD (j % 2)) := by
  unfold slotIns
  rw [BitVec.getLsbD_shiftLeft, BitVec.getLsbD_setWidth]
  by_cases h : j / 2 = k
  · have h1 : j - 2 * k = j % 2 := by omega
    have h2 : ¬ j < 2 * k := by omega
    have h3 : j % 2 < 16 := by omega
    simp [h, hj, h1, h2, h3]
  · by_cases h2 : j < 2 * k
    · simp [h, h2]
    · have h3 : 2 ≤ j - 2 * k := by omega
      simp [h, BitVec.getLsbD_of_ge c (j - 2 * k) h3]

/-- Two codes with the same two bits are equal. -/
theorem code_ext {c d : Code} (h0 : c.getLsbD 0 = d.getLsbD 0) (h1 : c.getLsbD 1 = d.getLsbD 1) : c = d := by
  revert c d
  decide

/-- Slots of the word SETTYPE writes (R167, R173). -/
theorem slotGet_orSlotValue (w : Half) (k j : Nat) (c : Code) (hj : j < 8) :
    slotGet (orSlotValue w k c) j = if j = k then slotGet w j ||| c else slotGet w j := by
  have bit : ∀ n, n < 2 → (slotGet (orSlotValue w k c) j).getLsbD n =
      ((slotGet w j).getLsbD n || (decide (j = k) && c.getLsbD n)) := by
    intro n hn
    rw [getLsbD_slotGet _ _ _ hn, getLsbD_slotGet _ _ _ hn, orSlotValue, BitVec.getLsbD_or,
      getLsbD_slotIns c k (2 * j + n) (by omega), show (2 * j + n) / 2 = j by omega,
      show (2 * j + n) % 2 = n by omega]
  by_cases h : j = k
  · rw [if_pos h]
    apply code_ext <;> rw [bit _ (by decide), BitVec.getLsbD_or, decide_eq_true h, Bool.true_and]
  · rw [if_neg h]
    apply code_ext <;> rw [bit _ (by decide), decide_eq_false h, Bool.false_and, Bool.or_false]

/-- Slots of the word MASK writes (R170, R173). -/
theorem slotGet_clearSlotValue (w : Half) (k j : Nat) (hk : k < 8) (hj : j < 8) :
    slotGet (clearSlotValue w k) j = if j = k then 0 else slotGet w j := by
  have bit : ∀ n, n < 2 → (slotGet (clearSlotValue w k) j).getLsbD n =
      ((slotGet w j).getLsbD n && !decide (j = k)) := by
    intro n hn
    rw [getLsbD_slotGet _ _ _ hn, getLsbD_slotGet _ _ _ hn, clearSlotValue, BitVec.getLsbD_and,
      BitVec.getLsbD_not, getLsbD_slotMask k (2 * j + n) hk (by omega), show (2 * j + n) / 2 = j by omega,
      decide_eq_true (show 2 * j + n < 16 by omega), Bool.true_and]
  by_cases h : j = k
  · rw [if_pos h]
    apply code_ext <;>
      rw [bit _ (by decide), decide_eq_true h, Bool.not_true, Bool.and_false] <;> rfl
  · rw [if_neg h]
    apply code_ext <;> rw [bit _ (by decide), decide_eq_false h, Bool.not_false, Bool.and_true]

/-- Slots of the word UNMASK writes (R171, R173). -/
theorem slotGet_restoreSlotValue (m : UnmaskMerge) (w : Half) (k j : Nat) (c : Code) (hk : k < 8) (hj : j < 8) :
    slotGet (restoreSlotValue m w k c) j =
      if j = k then (match m with | .replace => c | .or => slotGet w j ||| c) else slotGet w j := by
  cases m
  · have h1 := slotGet_orSlotValue (clearSlotValue w k) k j c hj
    have h2 := slotGet_clearSlotValue w k j hk hj
    unfold orSlotValue clearSlotValue at h1
    unfold clearSlotValue at h2
    simp only [restoreSlotValue]
    rw [h1, h2]
    by_cases h : j = k <;> simp [h]
  · exact slotGet_orSlotValue w k j c hj

/-- Two event-config words with the same eight slots are equal (R23). -/
theorem half_ext_slots {u v : Half} (h : ∀ k, k < 8 → slotGet u k = slotGet v k) : u = v := by
  apply BitVec.eq_of_getLsbD_eq
  intro j hj
  have hk := h (j / 2) (by omega)
  have hb := congrArg (fun c : Code => c.getLsbD (j % 2)) hk
  simp only [getLsbD_slotGet _ _ _ (show j % 2 < 2 by omega)] at hb
  rwa [show 2 * (j / 2) + j % 2 = j by omega] at hb

/-! ### The divider selection -/

/-- What the walk selects is the encoding before it or one of its table (R132). -/
theorem selectFrom_mem (ref req : Nat) (sel : BitVec 4) : ∀ (tab : List ClkEntry) (prev : Option (BitVec 4)),
    selectFrom ref req prev tab = some sel → prev = some sel ∨ ∃ e ∈ tab, e.sel = sel := by
  intro tab
  induction tab with
  | nil => exact fun _ h => nomatch h
  | cons e tab ih =>
    intro prev h
    simp only [selectFrom] at h
    split at h
    · cases h
      exact .inl rfl
    · split at h
      · cases h
        exact .inr ⟨e, by simp, rfl⟩
      · rcases ih _ h with h | ⟨e', he, hs⟩
        · cases h
          exact .inr ⟨e, by simp, rfl⟩
        · exact .inr ⟨e', by simp [he], hs⟩

/-! ### Values the read-modify-writes store -/

/-- A field of a byte inside a mask is that of the masked byte. -/
theorem extract_of_and {a b m : Byte} {lo len : Nat} (hm : ∀ i, i < len → m.getLsbD (lo + i) = true)
    (h : a &&& m = b &&& m) : a.extractLsb' lo len = b.extractLsb' lo len := by
  apply BitVec.eq_of_getLsbD_eq
  intro i hi
  have hb := congrArg (fun x : Byte => x.getLsbD (lo + i)) h
  simp only [BitVec.getLsbD_and, hm i hi, Bool.and_true] at hb
  simp [hi, hb]

/-- The `CLKCFG` value CLKSEL writes (R133). -/
theorem clkValue_low (old : Byte) (sel : BitVec 4) : (clkValue old sel).extractLsb' 0 4 = sel := by
  have h : ∀ sel : BitVec 4, ∀ old : Byte, (clkValue old sel).extractLsb' 0 4 = sel := by decide +kernel
  exact h sel old

/-- CLKSEL keeps bits 7:4 as read (R133). -/
theorem clkValue_high (old : Byte) (sel : BitVec 4) : (clkValue old sel).extractLsb' 4 4 = old.extractLsb' 4 4 := by
  have h : ∀ sel : BitVec 4, ∀ old : Byte, (clkValue old sel).extractLsb' 4 4 = old.extractLsb' 4 4 := by decide +kernel
  exact h sel old

/-- The enable bit IFEN writes (R136). -/
theorem ifenValue_enable (mode : BitVec 2) (en : Bool) (v : Byte) : (ifenValue mode en v).getLsbD 7 = en := by
  have h : ∀ mode : BitVec 2, ∀ en, ∀ v : Byte, (ifenValue mode en v).getLsbD 7 = en := by decide +kernel
  exact h mode en v

/-- The sampling mode IFEN writes (R136). -/
theorem ifenValue_mode (mode : BitVec 2) (en : Bool) (v : Byte) : (ifenValue mode en v).extractLsb' 1 2 = mode := by
  have h : ∀ mode : BitVec 2, ∀ en, ∀ v : Byte, (ifenValue mode en v).extractLsb' 1 2 = mode := by decide +kernel
  exact h mode en v

/-- The bits IFEN keeps as read (R136). -/
theorem ifenValue_kept (mode : BitVec 2) (en : Bool) (v : Byte) : ifenValue mode en v &&& 0x79 = v &&& 0x79 := by
  have h : ∀ mode : BitVec 2, ∀ en, ∀ v : Byte, ifenValue mode en v &&& 0x79 = v &&& 0x79 := by decide +kernel
  exact h mode en v

/-- The nibbles of the port-width byte, for line counts that INIT admits (R134). -/
theorem portByte_nibbles {p : Params} (ho : p.noutN ≤ 64) (hi : p.ninN ≤ 64) :
    ((portByte p).extractLsb' 0 4).toNat = (p.ninN + 7) / 8 ∧ ((portByte p).extractLsb' 4 4).toNat = (p.noutN + 7) / 8 := by
  have h : ∀ a < 9, ∀ b < 9, ((BitVec.ofNat 8 a <<< 4 ||| BitVec.ofNat 8 b).extractLsb' 0 4).toNat = b ∧
      ((BitVec.ofNat 8 a <<< 4 ||| BitVec.ofNat 8 b).extractLsb' 4 4).toNat = a := by decide
  exact h ((p.noutN + 7) / 8) (by omega) ((p.ninN + 7) / 8) (by omega)

end Sys2Proof.Machine
end

