-- ==== Sys2Proof/Laws/State.lean ====
section
/-! SUPPORT. What each named update of the state leaves in each field: one lemma per field per update, so that no later proof unfolds a
record update. -/

namespace Sys2Proof.Machine

/-! ### An output event -/

@[simp] theorem emit_params (e : Event) (s : State) : (emit e s).params = s.params := rfl

@[simp] theorem emit_wdata (e : Event) (s : State) : (emit e s).wdata = s.wdata := rfl

@[simp] theorem emit_rdata (e : Event) (s : State) : (emit e s).rdata = s.rdata := rfl

@[simp] theorem emit_evcfg (e : Event) (s : State) : (emit e s).evcfg = s.evcfg := rfl

@[simp] theorem emit_evsts (e : Event) (s : State) : (emit e s).evsts = s.evsts := rfl

@[simp] theorem emit_ctrl (e : Event) (s : State) : (emit e s).ctrl = s.ctrl := rfl

@[simp] theorem emit_clkcfg (e : Event) (s : State) : (emit e s).clkcfg = s.clkcfg := rfl

@[simp] theorem emit_portcfg (e : Event) (s : State) : (emit e s).portcfg = s.portcfg := rfl

@[simp] theorem emit_portWritten (e : Event) (s : State) : (emit e s).portWritten = s.portWritten := rfl

@[simp] theorem emit_trigType (e : Event) (s : State) : (emit e s).trigType = s.trigType := rfl

@[simp] theorem emit_strat (e : Event) (s : State) : (emit e s).strat = s.strat := rfl

@[simp] theorem emit_lock (e : Event) (s : State) : (emit e s).lock = s.lock := rfl

@[simp] theorem emit_devstate (e : Event) (s : State) : (emit e s).devstate = s.devstate := rfl

@[simp] theorem emit_fault (e : Event) (s : State) : (emit e s).fault = s.fault := rfl

@[simp] theorem emit_ctxs (e : Event) (s : State) : (emit e s).ctxs = s.ctxs := rfl

@[simp] theorem emit_cur (e : Event) (s : State) : (emit e s).cur = s.cur := rfl

@[simp] theorem emit_agenda (e : Event) (s : State) : (emit e s).agenda = s.agenda := rfl

@[simp] theorem emit_turns (e : Event) (s : State) : (emit e s).turns = s.turns := rfl

@[simp] theorem emit_trace (e : Event) (s : State) : (emit e s).trace = s.trace ++ [e] := rfl

@[simp] theorem emit_draws (e : Event) (s : State) : (emit e s).draws = s.draws := rfl

/-! ### The end of an operation -/

@[simp] theorem finish_params (c : Nat) (r : Result) (s : State) : (finish c r s).params = s.params := rfl

@[simp] theorem finish_wdata (c : Nat) (r : Result) (s : State) : (finish c r s).wdata = s.wdata := rfl

@[simp] theorem finish_rdata (c : Nat) (r : Result) (s : State) : (finish c r s).rdata = s.rdata := rfl

@[simp] theorem finish_evcfg (c : Nat) (r : Result) (s : State) : (finish c r s).evcfg = s.evcfg := rfl

@[simp] theorem finish_evsts (c : Nat) (r : Result) (s : State) : (finish c r s).evsts = s.evsts := rfl

@[simp] theorem finish_ctrl (c : Nat) (r : Result) (s : State) : (finish c r s).ctrl = s.ctrl := rfl

@[simp] theorem finish_clkcfg (c : Nat) (r : Result) (s : State) : (finish c r s).clkcfg = s.clkcfg := rfl

@[simp] theorem finish_portcfg (c : Nat) (r : Result) (s : State) : (finish c r s).portcfg = s.portcfg := rfl

@[simp] theorem finish_portWritten (c : Nat) (r : Result) (s : State) : (finish c r s).portWritten = s.portWritten := rfl

@[simp] theorem finish_trigType (c : Nat) (r : Result) (s : State) : (finish c r s).trigType = s.trigType := rfl

@[simp] theorem finish_strat (c : Nat) (r : Result) (s : State) : (finish c r s).strat = s.strat := rfl

@[simp] theorem finish_lock (c : Nat) (r : Result) (s : State) : (finish c r s).lock = s.lock := rfl

@[simp] theorem finish_devstate (c : Nat) (r : Result) (s : State) : (finish c r s).devstate = s.devstate := rfl

@[simp] theorem finish_fault (c : Nat) (r : Result) (s : State) : (finish c r s).fault = s.fault := rfl

@[simp] theorem finish_ctxs (c : Nat) (r : Result) (s : State) : (finish c r s).ctxs = s.ctxs := rfl

@[simp] theorem finish_cur (c : Nat) (r : Result) (s : State) : (finish c r s).cur = s.cur := rfl

@[simp] theorem finish_agenda (c : Nat) (r : Result) (s : State) : (finish c r s).agenda = s.agenda := rfl

@[simp] theorem finish_turns (c : Nat) (r : Result) (s : State) : (finish c r s).turns = s.turns := rfl

@[simp] theorem finish_trace (c : Nat) (r : Result) (s : State) : (finish c r s).trace = s.trace ++ [.done c r] := rfl

@[simp] theorem finish_draws (c : Nat) (r : Result) (s : State) : (finish c r s).draws = s.draws := rfl

/-! ### A programming-logic fault -/

@[simp] theorem raiseLogicFault_params (c : Nat) (s : State) : (raiseLogicFault c s).params = s.params := rfl

@[simp] theorem raiseLogicFault_wdata (c : Nat) (s : State) : (raiseLogicFault c s).wdata = s.wdata := rfl

@[simp] theorem raiseLogicFault_rdata (c : Nat) (s : State) : (raiseLogicFault c s).rdata = s.rdata := rfl

@[simp] theorem raiseLogicFault_evcfg (c : Nat) (s : State) : (raiseLogicFault c s).evcfg = s.evcfg := rfl

@[simp] theorem raiseLogicFault_evsts (c : Nat) (s : State) : (raiseLogicFault c s).evsts = s.evsts := rfl

@[simp] theorem raiseLogicFault_ctrl (c : Nat) (s : State) : (raiseLogicFault c s).ctrl = s.ctrl := rfl

@[simp] theorem raiseLogicFault_clkcfg (c : Nat) (s : State) : (raiseLogicFault c s).clkcfg = s.clkcfg := rfl

@[simp] theorem raiseLogicFault_portcfg (c : Nat) (s : State) : (raiseLogicFault c s).portcfg = s.portcfg := rfl

@[simp] theorem raiseLogicFault_portWritten (c : Nat) (s : State) : (raiseLogicFault c s).portWritten = s.portWritten := rfl

@[simp] theorem raiseLogicFault_trigType (c : Nat) (s : State) : (raiseLogicFault c s).trigType = s.trigType := rfl

@[simp] theorem raiseLogicFault_strat (c : Nat) (s : State) : (raiseLogicFault c s).strat = s.strat := rfl

@[simp] theorem raiseLogicFault_lock (c : Nat) (s : State) : (raiseLogicFault c s).lock = s.lock := rfl

@[simp] theorem raiseLogicFault_devstate (c : Nat) (s : State) : (raiseLogicFault c s).devstate = s.devstate := rfl

@[simp] theorem raiseLogicFault_fault (c : Nat) (s : State) : (raiseLogicFault c s).fault = if s.fault.contains .badRegisterKind then s.fault else s.fault ++ [.badRegisterKind] := rfl

@[simp] theorem raiseLogicFault_ctxs (c : Nat) (s : State) : (raiseLogicFault c s).ctxs = s.ctxs := rfl

@[simp] theorem raiseLogicFault_cur (c : Nat) (s : State) : (raiseLogicFault c s).cur = s.cur := rfl

@[simp] theorem raiseLogicFault_agenda (c : Nat) (s : State) : (raiseLogicFault c s).agenda = s.agenda := rfl

@[simp] theorem raiseLogicFault_turns (c : Nat) (s : State) : (raiseLogicFault c s).turns = s.turns := rfl

@[simp] theorem raiseLogicFault_trace (c : Nat) (s : State) : (raiseLogicFault c s).trace = s.trace ++ [.done c (.error .badRegisterKind)] := rfl

@[simp] theorem raiseLogicFault_draws (c : Nat) (s : State) : (raiseLogicFault c s).draws = s.draws := rfl

/-! ### The counter of free values -/

@[simp] theorem useDraw_params (used : Bool) (s : State) : (useDraw used s).params = s.params := rfl

@[simp] theorem useDraw_wdata (used : Bool) (s : State) : (useDraw used s).wdata = s.wdata := rfl

@[simp] theorem useDraw_rdata (used : Bool) (s : State) : (useDraw used s).rdata = s.rdata := rfl

@[simp] theorem useDraw_evcfg (used : Bool) (s : State) : (useDraw used s).evcfg = s.evcfg := rfl

@[simp] theorem useDraw_evsts (used : Bool) (s : State) : (useDraw used s).evsts = s.evsts := rfl

@[simp] theorem useDraw_ctrl (used : Bool) (s : State) : (useDraw used s).ctrl = s.ctrl := rfl

@[simp] theorem useDraw_clkcfg (used : Bool) (s : State) : (useDraw used s).clkcfg = s.clkcfg := rfl

@[simp] theorem useDraw_portcfg (used : Bool) (s : State) : (useDraw used s).portcfg = s.portcfg := rfl

@[simp] theorem useDraw_portWritten (used : Bool) (s : State) : (useDraw used s).portWritten = s.portWritten := rfl

@[simp] theorem useDraw_trigType (used : Bool) (s : State) : (useDraw used s).trigType = s.trigType := rfl

@[simp] theorem useDraw_strat (used : Bool) (s : State) : (useDraw used s).strat = s.strat := rfl

@[simp] theorem useDraw_lock (used : Bool) (s : State) : (useDraw used s).lock = s.lock := rfl

@[simp] theorem useDraw_devstate (used : Bool) (s : State) : (useDraw used s).devstate = s.devstate := rfl

@[simp] theorem useDraw_fault (used : Bool) (s : State) : (useDraw used s).fault = s.fault := rfl

@[simp] theorem useDraw_ctxs (used : Bool) (s : State) : (useDraw used s).ctxs = s.ctxs := rfl

@[simp] theorem useDraw_cur (used : Bool) (s : State) : (useDraw used s).cur = s.cur := rfl

@[simp] theorem useDraw_agenda (used : Bool) (s : State) : (useDraw used s).agenda = s.agenda := rfl

@[simp] theorem useDraw_turns (used : Bool) (s : State) : (useDraw used s).turns = s.turns := rfl

@[simp] theorem useDraw_trace (used : Bool) (s : State) : (useDraw used s).trace = s.trace := rfl

@[simp] theorem useDraw_draws (used : Bool) (s : State) : (useDraw used s).draws = if used then s.draws + 1 else s.draws := rfl

/-- With no free value used nothing changes. -/
@[simp] theorem useDraw_false (s : State) : useDraw false s = s := rfl

/-! ### A bus read -/

@[simp] theorem afterRead_params (c : Nat) (r : Reg) (s : State) : (afterRead c r s).params = s.params := rfl

@[simp] theorem afterRead_wdata (c : Nat) (r : Reg) (s : State) : (afterRead c r s).wdata = s.wdata := rfl

@[simp] theorem afterRead_rdata (c : Nat) (r : Reg) (s : State) : (afterRead c r s).rdata = s.rdata := rfl

@[simp] theorem afterRead_evcfg (c : Nat) (r : Reg) (s : State) : (afterRead c r s).evcfg = s.evcfg := rfl

@[simp] theorem afterRead_evsts (c : Nat) (r : Reg) (s : State) : (afterRead c r s).evsts = s.evsts := rfl

@[simp] theorem afterRead_ctrl (c : Nat) (r : Reg) (s : State) : (afterRead c r s).ctrl = s.ctrl := rfl

@[simp] theorem afterRead_clkcfg (c : Nat) (r : Reg) (s : State) : (afterRead c r s).clkcfg = s.clkcfg := rfl

@[simp] theorem afterRead_portcfg (c : Nat) (r : Reg) (s : State) : (afterRead c r s).portcfg = s.portcfg := rfl

@[simp] theorem afterRead_portWritten (c : Nat) (r : Reg) (s : State) : (afterRead c r s).portWritten = s.portWritten := rfl

@[simp] theorem afterRead_trigType (c : Nat) (r : Reg) (s : State) : (afterRead c r s).trigType = s.trigType := rfl

@[simp] theorem afterRead_strat (c : Nat) (r : Reg) (s : State) : (afterRead c r s).strat = s.strat := rfl

@[simp] theorem afterRead_lock (c : Nat) (r : Reg) (s : State) : (afterRead c r s).lock = s.lock := rfl

@[simp] theorem afterRead_devstate (c : Nat) (r : Reg) (s : State) : (afterRead c r s).devstate = s.devstate := rfl

@[simp] theorem afterRead_fault (c : Nat) (r : Reg) (s : State) : (afterRead c r s).fault = s.fault := rfl

@[simp] theorem afterRead_ctxs (c : Nat) (r : Reg) (s : State) : (afterRead c r s).ctxs = s.ctxs := rfl

@[simp] theorem afterRead_cur (c : Nat) (r : Reg) (s : State) : (afterRead c r s).cur = s.cur := rfl

@[simp] theorem afterRead_agenda (c : Nat) (r : Reg) (s : State) : (afterRead c r s).agenda = s.agenda := rfl

@[simp] theorem afterRead_turns (c : Nat) (r : Reg) (s : State) : (afterRead c r s).turns = s.turns := rfl

@[simp] theorem afterRead_trace (c : Nat) (r : Reg) (s : State) : (afterRead c r s).trace = s.trace ++ [.read c r (readValue r s)] := rfl

@[simp] theorem afterRead_draws (c : Nat) (r : Reg) (s : State) : (afterRead c r s).draws = if readDraws r s then s.draws + 1 else s.draws := rfl

/-! ### The operations in progress of a context -/

@[simp] theorem setStack_params (c : Nat) (st : List Frame) (s : State) : (setStack c st s).params = s.params := rfl

@[simp] theorem setStack_wdata (c : Nat) (st : List Frame) (s : State) : (setStack c st s).wdata = s.wdata := rfl

@[simp] theorem setStack_rdata (c : Nat) (st : List Frame) (s : State) : (setStack c st s).rdata = s.rdata := rfl

@[simp] theorem setStack_evcfg (c : Nat) (st : List Frame) (s : State) : (setStack c st s).evcfg = s.evcfg := rfl

@[simp] theorem setStack_evsts (c : Nat) (st : List Frame) (s : State) : (setStack c st s).evsts = s.evsts := rfl

@[simp] theorem setStack_ctrl (c : Nat) (st : List Frame) (s : State) : (setStack c st s).ctrl = s.ctrl := rfl

@[simp] theorem setStack_clkcfg (c : Nat) (st : List Frame) (s : State) : (setStack c st s).clkcfg = s.clkcfg := rfl

@[simp] theorem setStack_portcfg (c : Nat) (st : List Frame) (s : State) : (setStack c st s).portcfg = s.portcfg := rfl

@[simp] theorem setStack_portWritten (c : Nat) (st : List Frame) (s : State) : (setStack c st s).portWritten = s.portWritten := rfl

@[simp] theorem setStack_trigType (c : Nat) (st : List Frame) (s : State) : (setStack c st s).trigType = s.trigType := rfl

@[simp] theorem setStack_strat (c : Nat) (st : List Frame) (s : State) : (setStack c st s).strat = s.strat := rfl

@[simp] theorem setStack_lock (c : Nat) (st : List Frame) (s : State) : (setStack c st s).lock = s.lock := rfl

@[simp] theorem setStack_devstate (c : Nat) (st : List Frame) (s : State) : (setStack c st s).devstate = s.devstate := rfl

@[simp] theorem setStack_fault (c : Nat) (st : List Frame) (s : State) : (setStack c st s).fault = s.fault := rfl

@[simp] theorem setStack_ctxs (c : Nat) (st : List Frame) (s : State) : (setStack c st s).ctxs = s.ctxs.set c { (ctxAt s c) with stack := st } := rfl

@[simp] theorem setStack_cur (c : Nat) (st : List Frame) (s : State) : (setStack c st s).cur = s.cur := rfl

@[simp] theorem setStack_agenda (c : Nat) (st : List Frame) (s : State) : (setStack c st s).agenda = s.agenda := rfl

@[simp] theorem setStack_turns (c : Nat) (st : List Frame) (s : State) : (setStack c st s).turns = s.turns := rfl

@[simp] theorem setStack_trace (c : Nat) (st : List Frame) (s : State) : (setStack c st s).trace = s.trace := rfl

@[simp] theorem setStack_draws (c : Nat) (st : List Frame) (s : State) : (setStack c st s).draws = s.draws := rfl

/-! ### What a context does next -/

@[simp] theorem setRequests_params (c : Nat) (rs : List Request) (s : State) : (setRequests c rs s).params = s.params := rfl

@[simp] theorem setRequests_wdata (c : Nat) (rs : List Request) (s : State) : (setRequests c rs s).wdata = s.wdata := rfl

@[simp] theorem setRequests_rdata (c : Nat) (rs : List Request) (s : State) : (setRequests c rs s).rdata = s.rdata := rfl

@[simp] theorem setRequests_evcfg (c : Nat) (rs : List Request) (s : State) : (setRequests c rs s).evcfg = s.evcfg := rfl

@[simp] theorem setRequests_evsts (c : Nat) (rs : List Request) (s : State) : (setRequests c rs s).evsts = s.evsts := rfl

@[simp] theorem setRequests_ctrl (c : Nat) (rs : List Request) (s : State) : (setRequests c rs s).ctrl = s.ctrl := rfl

@[simp] theorem setRequests_clkcfg (c : Nat) (rs : List Request) (s : State) : (setRequests c rs s).clkcfg = s.clkcfg := rfl

@[simp] theorem setRequests_portcfg (c : Nat) (rs : List Request) (s : State) : (setRequests c rs s).portcfg = s.portcfg := rfl

@[simp] theorem setRequests_portWritten (c : Nat) (rs : List Request) (s : State) : (setRequests c rs s).portWritten = s.portWritten := rfl

@[simp] theorem setRequests_trigType (c : Nat) (rs : List Request) (s : State) : (setRequests c rs s).trigType = s.trigType := rfl

@[simp] theorem setRequests_strat (c : Nat) (rs : List Request) (s : State) : (setRequests c rs s).strat = s.strat := rfl

@[simp] theorem setRequests_lock (c : Nat) (rs : List Request) (s : State) : (setRequests c rs s).lock = s.lock := rfl

@[simp] theorem setRequests_devstate (c : Nat) (rs : List Request) (s : State) : (setRequests c rs s).devstate = s.devstate := rfl

@[simp] theorem setRequests_fault (c : Nat) (rs : List Request) (s : State) : (setRequests c rs s).fault = s.fault := rfl

@[simp] theorem setRequests_ctxs (c : Nat) (rs : List Request) (s : State) : (setRequests c rs s).ctxs = s.ctxs.set c { (ctxAt s c) with requests := rs } := rfl

@[simp] theorem setRequests_cur (c : Nat) (rs : List Request) (s : State) : (setRequests c rs s).cur = s.cur := rfl

@[simp] theorem setRequests_agenda (c : Nat) (rs : List Request) (s : State) : (setRequests c rs s).agenda = s.agenda := rfl

@[simp] theorem setRequests_turns (c : Nat) (rs : List Request) (s : State) : (setRequests c rs s).turns = s.turns := rfl

@[simp] theorem setRequests_trace (c : Nat) (rs : List Request) (s : State) : (setRequests c rs s).trace = s.trace := rfl

@[simp] theorem setRequests_draws (c : Nat) (rs : List Request) (s : State) : (setRequests c rs s).draws = s.draws := rfl

/-! ### An operation left in progress -/

@[simp] theorem pushFrame_params (c : Nat) (f : Frame) (s : State) : (pushFrame c f s).params = s.params := rfl

@[simp] theorem pushFrame_wdata (c : Nat) (f : Frame) (s : State) : (pushFrame c f s).wdata = s.wdata := rfl

@[simp] theorem pushFrame_rdata (c : Nat) (f : Frame) (s : State) : (pushFrame c f s).rdata = s.rdata := rfl

@[simp] theorem pushFrame_evcfg (c : Nat) (f : Frame) (s : State) : (pushFrame c f s).evcfg = s.evcfg := rfl

@[simp] theorem pushFrame_evsts (c : Nat) (f : Frame) (s : State) : (pushFrame c f s).evsts = s.evsts := rfl

@[simp] theorem pushFrame_ctrl (c : Nat) (f : Frame) (s : State) : (pushFrame c f s).ctrl = s.ctrl := rfl

@[simp] theorem pushFrame_clkcfg (c : Nat) (f : Frame) (s : State) : (pushFrame c f s).clkcfg = s.clkcfg := rfl

@[simp] theorem pushFrame_portcfg (c : Nat) (f : Frame) (s : State) : (pushFrame c f s).portcfg = s.portcfg := rfl

@[simp] theorem pushFrame_portWritten (c : Nat) (f : Frame) (s : State) : (pushFrame c f s).portWritten = s.portWritten := rfl

@[simp] theorem pushFrame_trigType (c : Nat) (f : Frame) (s : State) : (pushFrame c f s).trigType = s.trigType := rfl

@[simp] theorem pushFrame_strat (c : Nat) (f : Frame) (s : State) : (pushFrame c f s).strat = s.strat := rfl

@[simp] theorem pushFrame_lock (c : Nat) (f : Frame) (s : State) : (pushFrame c f s).lock = s.lock := rfl

@[simp] theorem pushFrame_devstate (c : Nat) (f : Frame) (s : State) : (pushFrame c f s).devstate = s.devstate := rfl

@[simp] theorem pushFrame_fault (c : Nat) (f : Frame) (s : State) : (pushFrame c f s).fault = s.fault := rfl

@[simp] theorem pushFrame_ctxs (c : Nat) (f : Frame) (s : State) : (pushFrame c f s).ctxs = s.ctxs.set c { (ctxAt s c) with stack := f :: (ctxAt s c).stack } := rfl

@[simp] theorem pushFrame_cur (c : Nat) (f : Frame) (s : State) : (pushFrame c f s).cur = s.cur := rfl

@[simp] theorem pushFrame_agenda (c : Nat) (f : Frame) (s : State) : (pushFrame c f s).agenda = s.agenda := rfl

@[simp] theorem pushFrame_turns (c : Nat) (f : Frame) (s : State) : (pushFrame c f s).turns = s.turns := rfl

@[simp] theorem pushFrame_trace (c : Nat) (f : Frame) (s : State) : (pushFrame c f s).trace = s.trace := rfl

@[simp] theorem pushFrame_draws (c : Nat) (f : Frame) (s : State) : (pushFrame c f s).draws = s.draws := rfl

/-! ### A register write -/

@[simp] theorem storeReg_params (r : Reg) (v : Half) (s : State) : (storeReg r v s).params = s.params := by
  rcases r with ⟨_ | _ | _ | _, _⟩ | _ | _ | _ <;> rfl

@[simp] theorem storeReg_rdata (r : Reg) (v : Half) (s : State) : (storeReg r v s).rdata = s.rdata := by
  rcases r with ⟨_ | _ | _ | _, _⟩ | _ | _ | _ <;> rfl

@[simp] theorem storeReg_trigType (r : Reg) (v : Half) (s : State) : (storeReg r v s).trigType = s.trigType := by
  rcases r with ⟨_ | _ | _ | _, _⟩ | _ | _ | _ <;> rfl

@[simp] theorem storeReg_strat (r : Reg) (v : Half) (s : State) : (storeReg r v s).strat = s.strat := by
  rcases r with ⟨_ | _ | _ | _, _⟩ | _ | _ | _ <;> rfl

@[simp] theorem storeReg_lock (r : Reg) (v : Half) (s : State) : (storeReg r v s).lock = s.lock := by
  rcases r with ⟨_ | _ | _ | _, _⟩ | _ | _ | _ <;> rfl

@[simp] theorem storeReg_devstate (r : Reg) (v : Half) (s : State) : (storeReg r v s).devstate = s.devstate := by
  rcases r with ⟨_ | _ | _ | _, _⟩ | _ | _ | _ <;> rfl

@[simp] theorem storeReg_fault (r : Reg) (v : Half) (s : State) : (storeReg r v s).fault = s.fault := by
  rcases r with ⟨_ | _ | _ | _, _⟩ | _ | _ | _ <;> rfl

@[simp] theorem storeReg_ctxs (r : Reg) (v : Half) (s : State) : (storeReg r v s).ctxs = s.ctxs := by
  rcases r with ⟨_ | _ | _ | _, _⟩ | _ | _ | _ <;> rfl

@[simp] theorem storeReg_cur (r : Reg) (v : Half) (s : State) : (storeReg r v s).cur = s.cur := by
  rcases r with ⟨_ | _ | _ | _, _⟩ | _ | _ | _ <;> rfl

@[simp] theorem storeReg_agenda (r : Reg) (v : Half) (s : State) : (storeReg r v s).agenda = s.agenda := by
  rcases r with ⟨_ | _ | _ | _, _⟩ | _ | _ | _ <;> rfl

@[simp] theorem storeReg_turns (r : Reg) (v : Half) (s : State) : (storeReg r v s).turns = s.turns := by
  rcases r with ⟨_ | _ | _ | _, _⟩ | _ | _ | _ <;> rfl

@[simp] theorem storeReg_trace (r : Reg) (v : Half) (s : State) : (storeReg r v s).trace = s.trace := by
  rcases r with ⟨_ | _ | _ | _, _⟩ | _ | _ | _ <;> rfl

@[simp] theorem storeReg_draws (r : Reg) (v : Half) (s : State) : (storeReg r v s).draws = s.draws := by
  rcases r with ⟨_ | _ | _ | _, _⟩ | _ | _ | _ <;> rfl

/-! ### A bus write -/

@[simp] theorem afterWrite_params (c : Nat) (r : Reg) (v : Half) (s : State) : (afterWrite c r v s).params = s.params := by
  rcases r with ⟨_ | _ | _ | _, _⟩ | _ | _ | _ <;> rfl

@[simp] theorem afterWrite_rdata (c : Nat) (r : Reg) (v : Half) (s : State) : (afterWrite c r v s).rdata = s.rdata := by
  rcases r with ⟨_ | _ | _ | _, _⟩ | _ | _ | _ <;> rfl

@[simp] theorem afterWrite_trigType (c : Nat) (r : Reg) (v : Half) (s : State) : (afterWrite c r v s).trigType = s.trigType := by
  rcases r with ⟨_ | _ | _ | _, _⟩ | _ | _ | _ <;> rfl

@[simp] theorem afterWrite_strat (c : Nat) (r : Reg) (v : Half) (s : State) : (afterWrite c r v s).strat = s.strat := by
  rcases r with ⟨_ | _ | _ | _, _⟩ | _ | _ | _ <;> rfl

@[simp] theorem afterWrite_lock (c : Nat) (r : Reg) (v : Half) (s : State) : (afterWrite c r v s).lock = s.lock := by
  rcases r with ⟨_ | _ | _ | _, _⟩ | _ | _ | _ <;> rfl

@[simp] theorem afterWrite_devstate (c : Nat) (r : Reg) (v : Half) (s : State) : (afterWrite c r v s).devstate = s.devstate := by
  rcases r with ⟨_ | _ | _ | _, _⟩ | _ | _ | _ <;> rfl

@[simp] theorem afterWrite_fault (c : Nat) (r : Reg) (v : Half) (s : State) : (afterWrite c r v s).fault = s.fault := by
  rcases r with ⟨_ | _ | _ | _, _⟩ | _ | _ | _ <;> rfl

@[simp] theorem afterWrite_ctxs (c : Nat) (r : Reg) (v : Half) (s : State) : (afterWrite c r v s).ctxs = s.ctxs := by
  rcases r with ⟨_ | _ | _ | _, _⟩ | _ | _ | _ <;> rfl

@[simp] theorem afterWrite_cur (c : Nat) (r : Reg) (v : Half) (s : State) : (afterWrite c r v s).cur = s.cur := by
  rcases r with ⟨_ | _ | _ | _, _⟩ | _ | _ | _ <;> rfl

@[simp] theorem afterWrite_agenda (c : Nat) (r : Reg) (v : Half) (s : State) : (afterWrite c r v s).agenda = s.agenda := by
  rcases r with ⟨_ | _ | _ | _, _⟩ | _ | _ | _ <;> rfl

@[simp] theorem afterWrite_turns (c : Nat) (r : Reg) (v : Half) (s : State) : (afterWrite c r v s).turns = s.turns := by
  rcases r with ⟨_ | _ | _ | _, _⟩ | _ | _ | _ <;> rfl

@[simp] theorem afterWrite_draws (c : Nat) (r : Reg) (v : Half) (s : State) : (afterWrite c r v s).draws = s.draws := by
  rcases r with ⟨_ | _ | _ | _, _⟩ | _ | _ | _ <;> rfl

@[simp] theorem afterWrite_trace (c : Nat) (r : Reg) (v : Half) (s : State) :
    (afterWrite c r v s).trace = s.trace ++ [.write c r v] := by
  rcases r with ⟨_ | _ | _ | _, _⟩ | _ | _ | _ <;> rfl

/-! ### A step of the sampler of R190 -/

@[simp] theorem sampleExact_params (inp : Lines) (s : State) : (sampleExact inp s).params = s.params := rfl

@[simp] theorem sampleExact_wdata (inp : Lines) (s : State) : (sampleExact inp s).wdata = s.wdata := rfl

@[simp] theorem sampleExact_rdata (inp : Lines) (s : State) : (sampleExact inp s).rdata = perBank fun b => byteOfLines inp b := rfl

@[simp] theorem sampleExact_evcfg (inp : Lines) (s : State) : (sampleExact inp s).evcfg = s.evcfg := rfl

@[simp] theorem sampleExact_evsts (inp : Lines) (s : State) : (sampleExact inp s).evsts = perBank fun b => latchByte (entry s.evcfg b) (entry s.rdata b) (byteOfLines inp b) (entry s.evsts b) := rfl

@[simp] theorem sampleExact_ctrl (inp : Lines) (s : State) : (sampleExact inp s).ctrl = s.ctrl := rfl

@[simp] theorem sampleExact_clkcfg (inp : Lines) (s : State) : (sampleExact inp s).clkcfg = s.clkcfg := rfl

@[simp] theorem sampleExact_portcfg (inp : Lines) (s : State) : (sampleExact inp s).portcfg = s.portcfg := rfl

@[simp] theorem sampleExact_portWritten (inp : Lines) (s : State) : (sampleExact inp s).portWritten = s.portWritten := rfl

@[simp] theorem sampleExact_trigType (inp : Lines) (s : State) : (sampleExact inp s).trigType = s.trigType := rfl

@[simp] theorem sampleExact_strat (inp : Lines) (s : State) : (sampleExact inp s).strat = s.strat := rfl

@[simp] theorem sampleExact_lock (inp : Lines) (s : State) : (sampleExact inp s).lock = s.lock := rfl

@[simp] theorem sampleExact_devstate (inp : Lines) (s : State) : (sampleExact inp s).devstate = s.devstate := rfl

@[simp] theorem sampleExact_fault (inp : Lines) (s : State) : (sampleExact inp s).fault = s.fault := rfl

@[simp] theorem sampleExact_ctxs (inp : Lines) (s : State) : (sampleExact inp s).ctxs = s.ctxs := rfl

@[simp] theorem sampleExact_cur (inp : Lines) (s : State) : (sampleExact inp s).cur = s.cur := rfl

@[simp] theorem sampleExact_agenda (inp : Lines) (s : State) : (sampleExact inp s).agenda = s.agenda := rfl

@[simp] theorem sampleExact_turns (inp : Lines) (s : State) : (sampleExact inp s).turns = s.turns := rfl

@[simp] theorem sampleExact_trace (inp : Lines) (s : State) : (sampleExact inp s).trace = s.trace := rfl

@[simp] theorem sampleExact_draws (inp : Lines) (s : State) : (sampleExact inp s).draws = s.draws := rfl

/-! ### A step of the weaker sampler -/

@[simp] theorem sampleWeaker_params (s : State) : (sampleWeaker s).params = s.params := rfl

@[simp] theorem sampleWeaker_wdata (s : State) : (sampleWeaker s).wdata = s.wdata := rfl

@[simp] theorem sampleWeaker_rdata (s : State) : (sampleWeaker s).rdata = perBank fun b => byteOfLines (Config.freeSample s.draws) b := rfl

@[simp] theorem sampleWeaker_evcfg (s : State) : (sampleWeaker s).evcfg = s.evcfg := rfl

@[simp] theorem sampleWeaker_evsts (s : State) : (sampleWeaker s).evsts = perBank fun b =>
      entry s.evsts b ||| (byteOfLines (Config.freeLatch s.draws) b &&& unmaskedBits (entry s.evcfg b)) := rfl

@[simp] theorem sampleWeaker_ctrl (s : State) : (sampleWeaker s).ctrl = s.ctrl := rfl

@[simp] theorem sampleWeaker_clkcfg (s : State) : (sampleWeaker s).clkcfg = s.clkcfg := rfl

@[simp] theorem sampleWeaker_portcfg (s : State) : (sampleWeaker s).portcfg = s.portcfg := rfl

@[simp] theorem sampleWeaker_portWritten (s : State) : (sampleWeaker s).portWritten = s.portWritten := rfl

@[simp] theorem sampleWeaker_trigType (s : State) : (sampleWeaker s).trigType = s.trigType := rfl

@[simp] theorem sampleWeaker_strat (s : State) : (sampleWeaker s).strat = s.strat := rfl

@[simp] theorem sampleWeaker_lock (s : State) : (sampleWeaker s).lock = s.lock := rfl

@[simp] theorem sampleWeaker_devstate (s : State) : (sampleWeaker s).devstate = s.devstate := rfl

@[simp] theorem sampleWeaker_fault (s : State) : (sampleWeaker s).fault = s.fault := rfl

@[simp] theorem sampleWeaker_ctxs (s : State) : (sampleWeaker s).ctxs = s.ctxs := rfl

@[simp] theorem sampleWeaker_cur (s : State) : (sampleWeaker s).cur = s.cur := rfl

@[simp] theorem sampleWeaker_agenda (s : State) : (sampleWeaker s).agenda = s.agenda := rfl

@[simp] theorem sampleWeaker_turns (s : State) : (sampleWeaker s).turns = s.turns := rfl

@[simp] theorem sampleWeaker_trace (s : State) : (sampleWeaker s).trace = s.trace := rfl

@[simp] theorem sampleWeaker_draws (s : State) : (sampleWeaker s).draws = s.draws + 1 := rfl

/-! ### A step of the sampler, whichever is in force -/

@[simp] theorem sample_params (inp : Lines) (s : State) : (sample inp s).params = s.params := by
  unfold sample
  repeat' split
  all_goals rfl

@[simp] theorem sample_wdata (inp : Lines) (s : State) : (sample inp s).wdata = s.wdata := by
  unfold sample
  repeat' split
  all_goals rfl

@[simp] theorem sample_evcfg (inp : Lines) (s : State) : (sample inp s).evcfg = s.evcfg := by
  unfold sample
  repeat' split
  all_goals rfl

@[simp] theorem sample_ctrl (inp : Lines) (s : State) : (sample inp s).ctrl = s.ctrl := by
  unfold sample
  repeat' split
  all_goals rfl

@[simp] theorem sample_clkcfg (inp : Lines) (s : State) : (sample inp s).clkcfg = s.clkcfg := by
  unfold sample
  repeat' split
  all_goals rfl

@[simp] theorem sample_portcfg (inp : Lines) (s : State) : (sample inp s).portcfg = s.portcfg := by
  unfold sample
  repeat' split
  all_goals rfl

@[simp] theorem sample_portWritten (inp : Lines) (s : State) : (sample inp s).portWritten = s.portWritten := by
  unfold sample
  repeat' split
  all_goals rfl

@[simp] theorem sample_trigType (inp : Lines) (s : State) : (sample inp s).trigType = s.trigType := by
  unfold sample
  repeat' split
  all_goals rfl

@[simp] theorem sample_strat (inp : Lines) (s : State) : (sample inp s).strat = s.strat := by
  unfold sample
  repeat' split
  all_goals rfl

@[simp] theorem sample_lock (inp : Lines) (s : State) : (sample inp s).lock = s.lock := by
  unfold sample
  repeat' split
  all_goals rfl

@[simp] theorem sample_devstate (inp : Lines) (s : State) : (sample inp s).devstate = s.devstate := by
  unfold sample
  repeat' split
  all_goals rfl

@[simp] theorem sample_fault (inp : Lines) (s : State) : (sample inp s).fault = s.fault := by
  unfold sample
  repeat' split
  all_goals rfl

@[simp] theorem sample_ctxs (inp : Lines) (s : State) : (sample inp s).ctxs = s.ctxs := by
  unfold sample
  repeat' split
  all_goals rfl

@[simp] theorem sample_cur (inp : Lines) (s : State) : (sample inp s).cur = s.cur := by
  unfold sample
  repeat' split
  all_goals rfl

@[simp] theorem sample_agenda (inp : Lines) (s : State) : (sample inp s).agenda = s.agenda := by
  unfold sample
  repeat' split
  all_goals rfl

@[simp] theorem sample_turns (inp : Lines) (s : State) : (sample inp s).turns = s.turns := by
  unfold sample
  repeat' split
  all_goals rfl

@[simp] theorem sample_trace (inp : Lines) (s : State) : (sample inp s).trace = s.trace := by
  unfold sample
  repeat' split
  all_goals rfl

end Sys2Proof.Machine
end

