-- ==== Sys2Proof/Laws/Run.lean ====
section
/-! SUPPORT. What running an operation does: step by step when nothing moves inside it, and, when other agents move, which relations
between the state before and the state after every run keeps. -/

namespace Sys2Proof.Machine

/-! ### An undisturbed run, step by step -/

/-- With no turn left a step is taken, unless it waits for the lock. -/
theorem interleave_nil (c : Nat) (m : Micro) (s : State) (h : s.turns = []) :
    interleave c m [] s = (s, !m.blocked s) := by
  obtain ⟨⟩ := s
  subst h
  rfl

/-- The end of an operation. -/
@[simp] theorem runOp_nil (c : Nat) (ret : Return) (latch : Half) (s : State) :
    runOp c ret [] latch s = finish c (ret.eval latch) s := rfl

/-- An undisturbed step that does not wait. -/
theorem runOp_cons (c : Nat) (ret : Return) (m : Micro) (rest : List Micro) (latch : Half) (s : State)
    (hq : s.turns = []) (hb : m.blocked s = false) :
    runOp c ret (m :: rest) latch s =
      match m.run c latch s with
      | .more latch' s' => runOp c ret rest latch' s'
      | .ended s' => s'
      | .calls s' => pushFrame c ⟨latch, m :: rest, ret, true⟩ s'
      | .waits => pushFrame c ⟨latch, m :: rest, ret, false⟩ s := by
  have h : (if m.shared then interleave c m s.turns s else (s, true)) = (s, true) := by
    rw [hq, interleave_nil c m s hq, hb]
    simp
  rw [runOp, h]
  rfl

/-- A step other than taking the lock never waits. -/
theorem blocked_of_ne_acquire (m : Micro) (s : State) (h : m ≠ .acquire) : m.blocked s = false := by
  simp [Micro.blocked, h]

/-- Taking a free lock does not wait. -/
theorem blocked_of_free (m : Micro) (s : State) (h : s.lock = .free) : m.blocked s = false := by
  simp [Micro.blocked, h]

/-- An undisturbed bus read (R13). -/
theorem runOp_read (c : Nat) (ret : Return) (r : Reg) (rest : List Micro) (latch : Half) (s : State)
    (hq : s.turns = []) (hr : (regOffset r).isSome = true) :
    runOp c ret (.read r :: rest) latch s = runOp c ret rest (readValue r s) (afterRead c r s) := by
  rw [runOp_cons c ret _ rest latch s hq (blocked_of_ne_acquire _ s (by simp))]
  simp [Micro.run, hr]

/-- An undisturbed bus write (R13). -/
theorem runOp_write (c : Nat) (ret : Return) (r : Reg) (u : Update) (rest : List Micro) (latch : Half) (s : State)
    (hq : s.turns = []) (hr : (regOffset r).isSome = true) :
    runOp c ret (.write r u :: rest) latch s = runOp c ret rest latch (afterWrite c r (u.eval latch s) s) := by
  rw [runOp_cons c ret _ rest latch s hq (blocked_of_ne_acquire _ s (by simp))]
  simp [Micro.run, hr]

/-- A bus read of a register the accessor does not know ends the operation with the logic fault (R101, R203). -/
theorem runOp_read_fault (c : Nat) (ret : Return) (r : Reg) (rest : List Micro) (latch : Half) (s : State)
    (hq : s.turns = []) (hr : regOffset r = none) :
    runOp c ret (.read r :: rest) latch s = raiseLogicFault c s := by
  rw [runOp_cons c ret _ rest latch s hq (blocked_of_ne_acquire _ s (by simp))]
  simp [Micro.run, hr]

/-- A bus write of a register the accessor does not know ends the operation with the logic fault (R101, R203). -/
theorem runOp_write_fault (c : Nat) (ret : Return) (r : Reg) (u : Update) (rest : List Micro) (latch : Half) (s : State)
    (hq : s.turns = []) (hr : regOffset r = none) :
    runOp c ret (.write r u :: rest) latch s = raiseLogicFault c s := by
  rw [runOp_cons c ret _ rest latch s hq (blocked_of_ne_acquire _ s (by simp))]
  simp [Micro.run, hr]

/-- Taking a free lock (R61). -/
theorem runOp_acquire (c : Nat) (ret : Return) (rest : List Micro) (latch : Half) (s : State)
    (hq : s.turns = []) (hl : s.lock = .free) :
    runOp c ret (.acquire :: rest) latch s = runOp c ret rest latch { s with lock := .held c } := by
  rw [runOp_cons c ret _ rest latch s hq (blocked_of_free _ s hl)]
  simp [Micro.run, hl]

/-- Finding the lock held with no turn left: the operation waits, and nothing else happens (R61). -/
theorem runOp_acquire_held (c : Nat) (ret : Return) (rest : List Micro) (latch : Half) (s : State)
    (hq : s.turns = []) (hl : s.lock ≠ .free) :
    runOp c ret (.acquire :: rest) latch s = pushFrame c ⟨latch, .acquire :: rest, ret, false⟩ s := by
  have hb : Micro.blocked .acquire s = true := by simp [Micro.blocked, hl]
  have h : interleave c .acquire s.turns s = (s, false) := by
    rw [hq, interleave_nil c _ s hq, hb]
    rfl
  rw [runOp]
  simp [Micro.shared, h]

/-- Releasing the lock (R61). -/
theorem runOp_release (c : Nat) (ret : Return) (rest : List Micro) (latch : Half) (s : State) (hq : s.turns = []) :
    runOp c ret (.release :: rest) latch s = runOp c ret rest latch { s with lock := .free } := by
  rw [runOp_cons c ret _ rest latch s hq (blocked_of_ne_acquire _ s (by simp))]
  rfl

/-- `TYPE[i] <- c` (R167). -/
theorem runOp_setType (c : Nat) (ret : Return) (i : Nat) (code : Code) (rest : List Micro) (latch : Half) (s : State)
    (hq : s.turns = []) :
    runOp c ret (.setType i code :: rest) latch s =
      runOp c ret rest latch { s with trigType := putEntry s.trigType i code } := by
  rw [runOp_cons c ret _ rest latch s hq (blocked_of_ne_acquire _ s (by simp))]
  rfl

/-- `STRAT[i] <- s` (R167). -/
theorem runOp_setStrat (c : Nat) (ret : Return) (i : Nat) (st : Strategy) (rest : List Micro) (latch : Half) (s : State)
    (hq : s.turns = []) :
    runOp c ret (.setStrat i st :: rest) latch s =
      runOp c ret rest latch { s with strat := putEntry s.strat i st } := by
  rw [runOp_cons c ret _ rest latch s hq (blocked_of_ne_acquire _ s (by simp))]
  rfl

/-- The read-back check of PORTW (R135). -/
theorem runOp_check (c : Nat) (ret : Return) (v : Byte) (rest : List Micro) (latch : Half) (s : State)
    (hq : s.turns = []) :
    runOp c ret (.check v :: rest) latch s =
      if latch = v.setWidth 16 then runOp c ret rest latch s
      else finish c (.error .portWidthReadbackMismatch) s := by
  rw [runOp_cons c ret _ rest latch s hq (blocked_of_ne_acquire _ s (by simp))]
  by_cases h : latch = v.setWidth 16 <;> simp [Micro.run, h]

/-- `DEVSTATE <- UP` (R139). -/
theorem runOp_bringUp (c : Nat) (ret : Return) (rest : List Micro) (latch : Half) (s : State) (hq : s.turns = []) :
    runOp c ret (.bringUp :: rest) latch s = runOp c ret rest latch { s with devstate := .up } := by
  rw [runOp_cons c ret _ rest latch s hq (blocked_of_ne_acquire _ s (by simp))]
  rfl

/-- Examining one bit of a snapshot (R186). -/
theorem runOp_scan (c : Nat) (ret : Return) (b k : Nat) (rest : List Micro) (latch : Half) (s : State)
    (hq : s.turns = []) :
    runOp c ret (.scan b k :: rest) latch s =
      if latch.getLsbD k then pushFrame c ⟨latch, .scan b k :: rest, ret, true⟩ (emit (.deliver c (vline s.params b k)) s)
      else runOp c ret rest latch s := by
  rw [runOp_cons c ret _ rest latch s hq (blocked_of_ne_acquire _ s (by simp))]
  cases h : latch.getLsbD k <;> simp [Micro.run, h]

/-! ### What every run keeps -/

/-- A property of every state a step of an operation can lead to. -/
def Flow.All (P : State → Prop) : Flow → Prop
  | .more _ s => P s
  | .ended s => P s
  | .calls s => P s
  | .waits => True

/-- A relation between the state before and the state after that every move inside a run keeps: the sampler's step, a step of an
operation, the bookkeeping of contexts, turns and free values, and the end of an operation. -/
structure MoveInvariant (R : State → State → Prop) : Prop where
  refl : ∀ s, R s s
  trans : ∀ {s t u}, R s t → R t u → R s u
  turns : ∀ s ts, R s { s with turns := ts }
  sample : ∀ inp s, R s (sample inp s)
  step : ∀ (m : Micro) c latch s, (m.run c latch s).All (R s)
  stack : ∀ c st s, R s (setStack c st s)
  finish : ∀ c (ret : Return) latch s, R s (finish c (ret.eval latch) s)
  draw : ∀ used s, R s (useDraw used s)

namespace MoveInvariant

variable {R : State → State → Prop}

/-- A step of another context. -/
theorem contextStep (h : MoveInvariant R) (c : Nat) (s : State) : R s (contextStep c s) := by
  unfold Machine.contextStep
  split
  · exact h.refl s
  · next f below hst =>
    split
    · exact h.refl s
    · split
      · exact h.trans (h.stack _ _ _) (h.finish _ _ _ _)
      · next m rest htodo =>
        have hm := h.step m c f.latch s
        split
        · next l s' he =>
          rw [he] at hm
          split
          · exact h.trans hm (h.trans (h.stack _ _ _) (h.finish _ _ _ _))
          · exact h.trans hm (h.stack _ _ _)
        · next s' he =>
          rw [he] at hm
          exact h.trans hm (h.stack _ _ _)
        · next s' he =>
          rw [he] at hm
          exact h.trans hm (h.stack _ _ _)
        · exact h.refl s

/-- What the other agents do before a step. -/
theorem interleave (h : MoveInvariant R) (c : Nat) (m : Micro) (ts : List Turn) :
    ∀ s, R s (interleave c m ts s).1 := by
  induction ts with
  | nil => exact fun s => h.turns s []
  | cons t ts ih =>
    intro s
    cases t with
    | preempt => exact h.turns s ts
    | sampler inp => exact h.trans (h.sample inp s) (ih _)
    | ctx d =>
      simp only [Machine.interleave]
      split
      · split
        · exact ih s
        · exact h.turns s ts
      · exact h.trans (h.contextStep d s) (ih _)

/-- A whole run of an operation. -/
theorem runOp (h : MoveInvariant R) (c : Nat) (ret : Return) (prog : List Micro) :
    ∀ latch s, R s (runOp c ret prog latch s) := by
  induction prog with
  | nil => exact fun latch s => h.finish c ret latch s
  | cons m rest ih =>
    intro latch s
    simp only [Machine.runOp]
    have hi : R s (if m.shared then Machine.interleave c m s.turns s else (s, true)).1 := by
      split
      · exact h.interleave c m _ s
      · exact h.refl s
    generalize (if m.shared then Machine.interleave c m s.turns s else (s, true)) = p at hi ⊢
    obtain ⟨s₁, go⟩ := p
    cases go with
    | false => exact h.trans hi (h.stack _ _ _)
    | true =>
      have hm := h.step m c latch s₁
      simp only [if_true]
      split
      · next l s' he =>
        rw [he] at hm
        exact h.trans hi (h.trans hm (ih _ _))
      · next s' he =>
        rw [he] at hm
        exact h.trans hi hm
      · next s' he =>
        rw [he] at hm
        exact h.trans hi (h.trans hm (h.stack _ _ _))
      · exact h.trans hi (h.stack _ _ _)

end MoveInvariant

end Sys2Proof.Machine
end

