-- ==== Sys2Proof/Laws/Exec.lean ====
section
/-! SUPPORT. What an instruction can answer, said once for all instructions: an error handed to the caller, or the run of a program of
steps; and what every step of the machine keeps. -/

namespace Sys2Proof.Machine

/-! ### Refusals -/

/-- An instruction that answers a next state was not refused (R204). -/
theorem unlessRefused_next {r : Option Refusal} {k : Answer} {t : State} (h : unlessRefused r k = .next t) :
    r = none ∧ k = .next t := by
  cases r with
  | none => exact ⟨rfl, h⟩
  | some why => cases h

/-- When a line operation is not refused (R155). -/
theorem lineRefusal_none (o : Nat) (s : State) :
    lineRefusal o s = none ↔ s.devstate = .up ∧ o < s.params.noutN + s.params.ninN := by
  unfold lineRefusal
  cases h : s.devstate <;> simp

/-- When an interrupt-chip operation is not refused (R165). -/
theorem inputRefusal_none (l : Nat) (s : State) :
    inputRefusal l s = none ↔ s.devstate = .up ∧ s.params.noutN ≤ l ∧ l < s.params.noutN + s.params.ninN := by
  unfold inputRefusal
  cases h : s.devstate <;> simp
  repeat' split <;> simp <;> omega

/-- When a dispatch is not refused (R32). -/
theorem downRefusal_none (s : State) : downRefusal s = none ↔ s.devstate = .up := by
  unfold downRefusal
  cases h : s.devstate <;> simp

/-- Parameters that INIT accepts have counts of at most 64 (R139). -/
theorem counts_of_initChecked {p : Params} (h : p.initChecked = true) : p.noutN ≤ 64 ∧ p.ninN ≤ 64 := by
  unfold Params.initChecked at h
  split at h
  · next nin nout _ _ hn ho _ _ =>
    simp only [Bool.and_eq_true, decide_eq_true_eq] at h
    simp [Params.noutN, Params.ninN, hn, ho, h]
  · cases h

/-- INIT goes on only with parameters it accepts (R139). -/
theorem initChecked_of_initError {p : Params} (h : initError p = none) : p.initChecked = true := by
  unfold initError at h
  unfold Params.initChecked
  split at h
  · next nin nout req hn ho hr =>
    split at h
    · cases h
    · split at h
      · cases h
      · next h1 h2 =>
        obtain ⟨ref, hf⟩ := Option.ne_none_iff_exists'.mp h2
        simp only [hn, ho, hr, hf]
        simp only [Bool.and_eq_true, decide_eq_true_eq]
        omega
  · cases h

/-- Register kinds of one of the eight banks are in the window (R101). -/
theorem regOffset_bank (k : Kind) (b : Nat) (h : b < 8) : (regOffset (.bank k b)).isSome = true := by
  simp [regOffset, h]

/-! ### Reads of registers with undescribed bits, and the enable bracket -/

/-- The described bits of a register read as they are, in either rule (R28). -/
theorem seenReserved_and_described (p : Params) (n : Nat) (d v : Byte) : seenReserved p n d v &&& d = v &&& d := by
  unfold seenReserved
  split
  · rfl
  · apply BitVec.eq_of_getLsbD_eq
    intro i hi
    simp only [BitVec.getLsbD_and, BitVec.getLsbD_or, BitVec.getLsbD_not]
    cases v.getLsbD i <;> cases d.getLsbD i <;> simp

/-- When undescribed bits are stored a register reads as it is (R28). -/
theorem seenReserved_stored (p : Params) (n : Nat) (d v : Byte) (h : p.reservedBits = .stored) :
    seenReserved p n d v = v := by
  simp [seenReserved, h]

/-- An undisturbed `IFEN` (R136). -/
theorem runOp_ifen (c : Nat) (ret : Return) (en : Bool) (rest : List Micro) (latch : Half) (s : State)
    (hq : s.turns = []) :
    runOp c ret (ifenSteps en ++ rest) latch s =
      let r := seenReserved s.params s.draws ctrlDescribed s.ctrl
      let v := ifenValue s.params.rdModePeriodic en r
      runOp c ret rest (r.setWidth 16)
        { s with
          ctrl := v
          draws := if s.params.reservedBits = .draw then s.draws + 1 else s.draws
          trace := s.trace ++ [.read c .ctrl (r.setWidth 16), .write c .ctrl (v.setWidth 16)] } := by
  rw [ifenSteps, List.cons_append, List.cons_append, List.nil_append, runOp_read _ _ _ _ _ _ hq rfl,
    runOp_write _ _ _ _ _ _ (afterRead c .ctrl s) hq rfl]
  simp [afterWrite, afterRead, storeReg, emit, readValue, readDraws, Update.eval]

/-- An undisturbed enable bracket (R62): the event-config word rewritten, `CTRL` rewritten twice, six transactions. -/
theorem runOp_bracketed (c : Nat) (ret : Return) (b : Nat) (u : Update) (rest : List Micro) (latch : Half) (s : State)
    (hq : s.turns = []) (hb : b < 8) :
    ∃ (r₁ c₁ r₂ c₂ : Byte) (n : Nat), BracketCtrl s r₁ c₁ r₂ c₂ n ∧ ∃ latch' : Half,
      runOp c ret (bracketed b u ++ rest) latch s =
        let w := entry s.evcfg b
        let w' := u.eval w s
        runOp c ret rest latch'
          { s with
            evcfg := putEntry s.evcfg b w', ctrl := c₂, draws := n
            trace := s.trace ++ [.read c .ctrl (r₁.setWidth 16), .write c .ctrl (c₁.setWidth 16),
              .read c (.bank .evcfg b) w, .write c (.bank .evcfg b) w',
              .read c .ctrl (r₂.setWidth 16), .write c .ctrl (c₂.setWidth 16)] } := by
  have hr := regOffset_bank .evcfg b hb
  let r₁ := seenReserved s.params s.draws ctrlDescribed s.ctrl
  let c₁ := ifenValue s.params.rdModePeriodic false r₁
  let n₁ := if s.params.reservedBits = .draw then s.draws + 1 else s.draws
  let r₂ := seenReserved s.params n₁ ctrlDescribed c₁
  let c₂ := ifenValue s.params.rdModePeriodic true r₂
  refine ⟨r₁, c₁, r₂, c₂, if s.params.reservedBits = .draw then n₁ + 1 else n₁,
    ⟨ifenValue_enable _ _ _, ifenValue_enable _ _ _, ifenValue_mode _ _ _, ifenValue_mode _ _ _, ifenValue_kept _ _ _,
      ifenValue_kept _ _ _, seenReserved_and_described _ _ _ _, seenReserved_and_described _ _ _ _, ?_⟩,
    r₂.setWidth 16, ?_⟩
  · intro h
    simp [r₁, r₂, n₁, seenReserved_stored _ _ _ _ h, h]
  · rw [bracketed, List.append_assoc, List.append_assoc, runOp_ifen _ _ _ _ _ _ hq]
    simp only [List.cons_append, List.nil_append]
    rw [runOp_read _ _ _ _ _ _ (by exact hq) hr, runOp_write _ _ _ _ _ _ _ (by exact hq) hr,
      runOp_ifen _ _ _ _ _ _ (by exact hq)]
    simp only [afterWrite, afterRead, storeReg, emit, readValue, readDraws, List.append_assoc, List.cons_append,
      List.nil_append, Bool.false_eq_true, if_false, r₁, c₁, n₁, r₂, c₂]
    cases u <;> rfl

/-- The port-width byte is legal, for line counts that INIT admits (R27, R134). -/
theorem portLegal_portByte {p : Params} (ho : p.noutN ≤ 64) (hi : p.ninN ≤ 64) : portLegal (portByte p) = true := by
  obtain ⟨h1, h2⟩ := portByte_nibbles ho hi
  unfold portLegal
  rw [h1, h2]
  simp only [decide_eq_true_eq]
  omega

/-! ### Contexts -/

/-- The operations in progress after those of one context were replaced; nothing changes when there is no such context (entry 20). -/
theorem stack_setStack (c d : Nat) (st : List Frame) (s : State) :
    (ctxAt (setStack c st s) d).stack = if d = c ∧ c < s.ctxs.length then st else (ctxAt s d).stack := by
  simp only [ctxAt, setStack, List.getElem?_set]
  by_cases h : c = d
  · subst h
    by_cases hc : c < s.ctxs.length <;> simp [hc]
  · simp [h, Ne.symm h]

/-- Replacing what a context does next leaves every operation in progress. -/
theorem stack_setRequests (c d : Nat) (rs : List Request) (s : State) :
    (ctxAt (setRequests c rs s) d).stack = (ctxAt s d).stack := by
  simp only [ctxAt, setRequests, List.getElem?_set]
  by_cases h : c = d
  · subst h
    by_cases hc : c < s.ctxs.length <;> simp [hc]
  · simp [h]

/-- A context with an operation in progress exists. -/
theorem exists_of_stack {c : Nat} {s : State} (h : (ctxAt s c).stack ≠ []) : c < s.ctxs.length := by
  by_contra hc
  simp [ctxAt, List.getElem?_eq_none (not_lt.mp hc)] at h

/-- No program is both outside and inside a locked body at its start (R61). -/
theorem lockShape_not_both (l : List Micro) (h : lockShape false l = true) : lockShape true l = false := by
  revert h
  induction l with
  | nil => simp [lockShape]
  | cons m l ih => cases m <;> simp [lockShape] <;> exact ih

/-! ### What an instruction runs -/

/-- A program that an instruction runs: it takes and releases the lock in turn, goes on to bring the device up only with checked
parameters, and stays in the window when the operands and the parameters are in range. -/
structure Runs (i : Instr) (s : State) (prog : List Micro) : Prop where
  shape : lockShape false prog = true
  checked : .bringUp ∈ prog → s.params.initChecked = true
  inRange : i.wellFormed = true → (s.devstate = .up → s.params.initChecked = true) → prog.all Micro.inRange = true

/-- Everything an instruction can answer as a next state: an error handed to its caller, and for an invalid argument nothing else (R202), or
the run of its steps in the issuing context; either may have used a free value first (entry 11). -/
theorem exec_cases {i : Instr} {s t : State} (h : exec i s = .next t) :
    (∃ e used, t = finish s.cur (.error e) (useDraw used s) ∧ (e.errClass = .invalidArgument → used = false)) ∨
    (∃ prog ret used, t = runOp s.cur ret prog 0 (useDraw used s) ∧ Runs i s prog) := by
  have runDraw : ∀ prog ret used, start prog ret (useDraw used s) = .next t → Runs i s prog →
      (∃ e used, t = finish s.cur (.error e) (useDraw used s) ∧ (e.errClass = .invalidArgument → used = false)) ∨
      (∃ prog ret used, t = runOp s.cur ret prog 0 (useDraw used s) ∧ Runs i s prog) := by
    intro prog ret used hs hr
    cases hs
    exact .inr ⟨prog, ret, used, rfl, hr⟩
  have run := fun prog ret => runDraw prog ret false
  have err : ∀ e, raise e s = .next t →
      (∃ e used, t = finish s.cur (.error e) (useDraw used s) ∧ (e.errClass = .invalidArgument → used = false)) ∨
      (∃ prog ret used, t = runOp s.cur ret prog 0 (useDraw used s) ∧ Runs i s prog) := by
    intro e hs
    cases hs
    exact .inl ⟨e, false, rfl, fun _ => rfl⟩
  have rd : ∀ k b, (i.wellFormed = true → b < 8) → Runs i s [.read (.bank k b)] := fun k b hb =>
    ⟨rfl, by simp, fun hw _ => by simp [Micro.inRange, regOffset_bank k b (hb hw)]⟩
  have wr : ∀ k b v, (i.wellFormed = true → b < 8) → Runs i s [.write (.bank k b) v] := fun k b v hb =>
    ⟨rfl, by simp, fun hw _ => by simp [Micro.inRange, regOffset_bank k b (hb hw)]⟩
  have glob : ∀ m : Micro, m.inRange = true → lockShape false [m] = true → m ≠ .bringUp → Runs i s [m] := fun m h1 h2 h3 =>
    ⟨h2, by simp [h3.symm], fun _ _ => by simp [h1]⟩
  have outRange : ∀ o, isOutput s.params o = true → lineRefusal o s = none →
      (s.devstate = .up → s.params.initChecked = true) → bankOf o < 8 := by
    intro o ho hl hc
    have h1 := (counts_of_initChecked (hc ((lineRefusal_none o s).mp hl).1)).1
    have h2 : o < s.params.noutN := by simpa [isOutput] using ho
    simp only [bankOf]
    omega
  have inRange : ∀ l, inputRefusal l s = none →
      (s.devstate = .up → s.params.initChecked = true) → bankOf (rel s.params l) < 8 := by
    intro l hl hc
    have hn := (inputRefusal_none l s).mp hl
    have h1 := (counts_of_initChecked (hc hn.1)).2
    simp only [bankOf, rel]
    omega
  have setRuns : ∀ o v, isOutput s.params o = true → lineRefusal o s = none → Runs i s (setSteps o v) := fun o v ho hl =>
    ⟨rfl, by simp [setSteps], fun _ hc => by
      simp [setSteps, outCoord, Micro.inRange, regOffset_bank _ _ (outRange o ho hl hc)]⟩
  cases i with
  | init =>
    obtain ⟨-, h⟩ := unlessRefused_next (show unlessRefused _ _ = _ from h)
    split at h
    · exact err _ h
    · next he =>
      split at h
      · exact err _ h
      · next sel _ =>
        refine run _ _ h ⟨rfl, fun _ => initChecked_of_initError he, fun _ _ => rfl⟩
  | clksel =>
    obtain ⟨-, h⟩ := unlessRefused_next (show unlessRefused _ _ = _ from h)
    split at h
    · cases h
      exact .inl ⟨_, _, rfl, fun hc => absurd hc (by decide)⟩
    · exact runDraw _ _ _ h ⟨rfl, by simp [clkselSteps], fun _ _ => rfl⟩
  | portw => exact runDraw _ _ _ h ⟨rfl, by simp [portwSteps], fun _ _ => rfl⟩
  | ifen en => exact run _ _ h ⟨rfl, by simp [ifenSteps], fun _ _ => rfl⟩
  | dirget o =>
    obtain ⟨-, h⟩ := unlessRefused_next (show unlessRefused _ _ = _ from h)
    exact run _ _ h ⟨rfl, by simp, fun _ _ => rfl⟩
  | dirset o d =>
    obtain ⟨-, h⟩ := unlessRefused_next (show unlessRefused _ _ = _ from h)
    split at h
    · exact err _ h
    · exact err _ h
    · exact run _ _ h ⟨rfl, by simp, fun _ _ => rfl⟩
  | dirout o v =>
    obtain ⟨hl, h⟩ := unlessRefused_next (show unlessRefused _ _ = _ from h)
    split at h
    · next ho => exact run _ _ h (setRuns o v ho hl)
    · exact err _ h
  | get o =>
    obtain ⟨hl, h⟩ := unlessRefused_next (show unlessRefused _ _ = _ from h)
    split at h
    · next ho =>
      exact run _ _ h ⟨rfl, by simp, fun _ hc => by
        simp [outCoord, Micro.inRange, regOffset_bank _ _ (outRange o ho hl hc)]⟩
    · next ho =>
      refine run _ _ h ⟨rfl, by simp, fun _ hc => ?_⟩
      have hn := (lineRefusal_none o s).mp hl
      have h1 := (counts_of_initChecked (hc hn.1)).2
      have h2 : s.params.noutN ≤ o := by simpa [isOutput] using ho
      have h3 : bankOf (rel s.params o) < 8 := by
        simp only [bankOf, rel]
        omega
      simp [inCoord, Micro.inRange, regOffset_bank _ _ h3]
  | set o v =>
    obtain ⟨hl, h⟩ := unlessRefused_next (show unlessRefused _ _ = _ from h)
    split at h
    · next ho => exact run _ _ h (setRuns o v ho hl)
    · exact err _ h
  | settype l ty =>
    obtain ⟨hl, h⟩ := unlessRefused_next (show unlessRefused _ _ = _ from h)
    split at h
    · exact err _ h
    · exact run _ _ h ⟨rfl, by simp [settypeSteps, locked, bracketed, ifenSteps], fun _ hc => by
        simp [settypeSteps, locked, bracketed, ifenSteps, Micro.inRange, regOffset, inRange l hl hc]⟩
  | mask l =>
    obtain ⟨hl, h⟩ := unlessRefused_next (show unlessRefused _ _ = _ from h)
    exact run _ _ h ⟨rfl, by simp [maskSteps, locked, bracketed, ifenSteps, clearStatus], fun _ hc => by
      simp [maskSteps, locked, bracketed, ifenSteps, clearStatus, Micro.inRange, regOffset, inRange l hl hc]⟩
  | unmask l =>
    obtain ⟨hl, h⟩ := unlessRefused_next (show unlessRefused _ _ = _ from h)
    exact run _ _ h ⟨rfl, by simp [unmaskSteps, locked, bracketed, ifenSteps, clearStatus], fun _ hc => by
      simp [unmaskSteps, locked, bracketed, ifenSteps, clearStatus, Micro.inRange, regOffset, inRange l hl hc]⟩
  | ack l =>
    obtain ⟨hl, h⟩ := unlessRefused_next (show unlessRefused _ _ = _ from h)
    exact run _ _ h ⟨rfl, by simp [ackSteps, locked, clearStatus], fun _ hc => by
      simp [ackSteps, locked, clearStatus, Micro.inRange, regOffset_bank _ _ (inRange l hl hc)]⟩
  | dispatch =>
    obtain ⟨-, h⟩ := unlessRefused_next (show unlessRefused _ _ = _ from h)
    exact run _ _ h ⟨by decide, fun hb => absurd hb (by decide), fun _ _ => by decide⟩
  | rd8Wdata b => exact run _ _ h (rd .wdata b (by simp [Instr.wellFormed, bankFits]))
  | wr8Wdata b v => exact run _ _ h (wr .wdata b _ (by simp [Instr.wellFormed, bankFits]))
  | rd8Rdata b => exact run _ _ h (rd .rdata b (by simp [Instr.wellFormed, bankFits]))
  | wr8Rdata b v => exact run _ _ h (wr .rdata b _ (by simp [Instr.wellFormed, bankFits]))
  | rd16Evcfg b => exact run _ _ h (rd .evcfg b (by simp [Instr.wellFormed, bankFits]))
  | wr16Evcfg b v => exact run _ _ h (wr .evcfg b _ (by simp [Instr.wellFormed, bankFits]))
  | rd8Evsts b => exact run _ _ h (rd .evsts b (by simp [Instr.wellFormed, bankFits]))
  | wr8Evsts b v => exact run _ _ h (wr .evsts b _ (by simp [Instr.wellFormed, bankFits]))
  | rd8Ctrl => exact run _ _ h (glob _ rfl rfl (by simp))
  | wr8Ctrl v => exact run _ _ h (glob _ rfl rfl (by simp))
  | rd8Clkcfg => exact run _ _ h (glob _ rfl rfl (by simp))
  | wr8Clkcfg v => exact run _ _ h (glob _ rfl rfl (by simp))
  | rd8Portcfg => exact run _ _ h (glob _ rfl rfl (by simp))
  | wr8Portcfg v => exact run _ _ h (glob _ rfl rfl (by simp))

/-! ### What every step of the machine keeps -/

namespace MoveInvariant

variable {R : State → State → Prop}

/-- An instruction, for a relation that also an error handed to the caller keeps. -/
theorem exec (h : MoveInvariant R) (hf : ∀ c e s, R s (Machine.finish c (.error e) s))
    {i : Instr} {s t : State} (he : exec i s = .next t) : R s t := by
  rcases exec_cases he with ⟨e, used, rfl, -⟩ | ⟨prog, ret, used, rfl, -⟩
  · exact h.trans (h.draw used s) (hf _ e _)
  · exact h.trans (h.draw used s) (h.runOp _ ret prog 0 _)

/-- An operation in progress that goes on. -/
theorem resume (h : MoveInvariant R) (c : Nat) (s : State) : R s (resume c s) := by
  unfold Machine.resume
  split
  · exact h.refl s
  · next f below _ =>
    split
    · exact h.refl s
    · exact h.trans (h.stack _ _ _) (h.runOp _ _ _ _ _)

/-- The return of a line handler. -/
theorem handlerReturn (h : MoveInvariant R) (c : Nat) (s : State) : R s (handlerReturn c s) := by
  unfold Machine.handlerReturn
  split
  · exact h.refl s
  · next f below _ =>
    split
    · exact h.trans (h.stack _ _ _) (h.runOp _ _ _ _ _)
    · exact h.refl s

/-- A step of a context. -/
theorem act (h : MoveInvariant R) (hf : ∀ c e s, R s (Machine.finish c (.error e) s))
    (hr : ∀ c rs s, R s (setRequests c rs s)) {c : Nat} {s t : State}
    (ha : act c s = .next t) : R s t := by
  unfold Machine.act at ha
  split at ha
  · cases ha
    exact h.resume c s
  · next q _ =>
    unfold interruptEntry at ha
    split at ha
    · cases ha
      exact h.resume c s
    · split at ha
      · exact h.trans (hr c q s) (h.exec hf ha)
      · cases ha
        exact hr c q s
  · next q _ =>
    cases ha
    split
    · exact h.resume c s
    · exact h.trans (hr c q s) (h.handlerReturn c _)
  · next w q _ =>
    split at ha
    · cases ha
      exact h.resume c s
    · unfold issue at ha
      split at ha
      · exact h.trans (hr c q s) (h.exec hf ha)
      · cases ha

/-- A step of the machine, for a relation that also the bookkeeping of requests and of the agenda keeps. -/
theorem serve (h : MoveInvariant R) (hf : ∀ c e s, R s (Machine.finish c (.error e) s))
    (hr : ∀ c rs s, R s (setRequests c rs s))
    (ha : ∀ s a c, R s { s with agenda := a, cur := c }) {s t : State} (hs : Machine.step s = .next t) : R s t := by
  unfold Machine.step Machine.serve at hs
  split at hs
  · cases hs
  · split at hs
    · exact h.act hf hr hs
    · next c q _ => exact h.trans (ha s q c) (h.act hf hr hs)
    · next inp q _ =>
      cases hs
      exact h.trans (ha s q s.cur) (h.sample inp _)

end MoveInvariant

end Sys2Proof.Machine
end

