-- ==== Sys2Proof/Laws/PerInstr.lean ====
section
/-! SUPPORT. Per instruction: the word the encoder writes matches its row of the operation map (30_encoding.md R86, R87). -/

namespace Sys2Proof.Laws

namespace EncodesItsRow

/-- The word of a well-formed instruction is of its row's format, and `word & mask = match` there. -/
def Statement (i : Instr) : Prop :=
  i.wellFormed = true →
    match encode i with
    | .opw w => ∃ m k, opRow i = some (m, k) ∧ w &&& k = m
    | .busw w => ∃ m k, busRow i = some (m, k) ∧ w &&& k = m

/-- A concatenation under a mask, part by part. -/
theorem append_and {a b : Nat} (x m : BitVec a) (y n : BitVec b) :
    (x ++ y) &&& (m ++ n) = (x &&& m) ++ (y &&& n) := by
  apply BitVec.eq_of_getLsbD_eq
  intro i hi
  simp only [BitVec.getLsbD_and, BitVec.getLsbD_append]
  split <;> rfl

/-- An operation word under the mask of a row that fixes `OPC`, part of `ARG`, and bit 7 (R70, R86). -/
theorem opw_and (opc arg a : BitVec 4) (line : BitVec 7) :
    (((opc ++ arg) ++ (0#1)) ++ line : BitVec 16) &&& (((15#4 ++ a) ++ 1#1) ++ 0#7) =
      (((opc ++ (arg &&& a)) ++ (0#1)) ++ 0#7 : BitVec 16) := by
  have h : ∀ opc : BitVec 4, opc &&& 15#4 = opc := by decide
  rw [append_and, append_and, append_and, h]
  simp

/-- A descriptor under the mask of a row that leaves `DATA` free (R71, R87). -/
theorem busw_and (req m : BitVec 8) (data : BitVec 16) :
    (req ++ data : BitVec 24) &&& (m ++ 0#16) = (req &&& m) ++ 0#16 := by
  rw [append_and]
  simp

/-- A descriptor under the mask of an 8-bit write, whose upper data byte is zero (R71, R87). -/
theorem busw_byte_and (req m : BitVec 8) (v : Byte) :
    (req ++ dataByte v : BitVec 24) &&& (m ++ 0xFF00#16) = (req &&& m) ++ 0#16 := by
  have h : ∀ v : Byte, dataByte v &&& 0xFF00#16 = 0#16 := by decide
  rw [append_and, h]

theorem init : Statement .init := fun _ => ⟨_, _, rfl, by decide⟩

theorem clksel : Statement .clksel := fun _ => ⟨_, _, rfl, by decide⟩

theorem portw : Statement .portw := fun _ => ⟨_, _, rfl, by decide⟩

theorem ifen (en : Bool) : Statement (.ifen en) := fun _ => ⟨_, _, rfl, by cases en <;> decide⟩

theorem dirget (o : Nat) : Statement (.dirget o) := fun _ => ⟨_, _, rfl, opw_and 4 0 15 _⟩

theorem dirset (o : Nat) (d : Direction) : Statement (.dirset o d) := fun _ =>
  ⟨_, _, rfl, (opw_and 5 (argBit d.bit) 14 _).trans (by cases d <;> decide)⟩

theorem dirout (o : Nat) (v : Bool) : Statement (.dirout o v) := fun _ =>
  ⟨_, _, rfl, (opw_and 6 (argBit v) 14 _).trans (by cases v <;> decide)⟩

theorem get (o : Nat) : Statement (.get o) := fun _ => ⟨_, _, rfl, opw_and 7 0 15 _⟩

theorem set (o : Nat) (v : Bool) : Statement (.set o v) := fun _ =>
  ⟨_, _, rfl, (opw_and 8 (argBit v) 14 _).trans (by cases v <;> decide)⟩

theorem settype (l : Nat) (t : BitVec 4) : Statement (.settype l t) := fun _ =>
  ⟨_, _, rfl, (opw_and 9 t 0 _).trans (by simp)⟩

theorem mask (l : Nat) : Statement (.mask l) := fun _ => ⟨_, _, rfl, opw_and 10 0 15 _⟩

theorem unmask (l : Nat) : Statement (.unmask l) := fun _ => ⟨_, _, rfl, opw_and 11 0 15 _⟩

theorem ack (l : Nat) : Statement (.ack l) := fun _ => ⟨_, _, rfl, opw_and 12 0 15 _⟩

theorem dispatch : Statement .dispatch := fun _ => ⟨_, _, rfl, by decide⟩

/-- The request byte of a bank's transaction, under its mask, for every bank (R87). -/
theorem bank_request {P : Nat → Prop} (h : ∀ b, b < 8 → P b) {b : Nat} (hb : bankFits b = true) : P b :=
  h b (of_decide_eq_true hb)

theorem rd8Wdata (b : Nat) : Statement (.rd8Wdata b) := fun hb =>
  ⟨_, _, rfl, (busw_and _ 0xF8 _).trans
    (bank_request (P := fun b => (((0#1 ++ 0#1) ++ BitVec.ofNat 6 (0x00 + b) : BitVec 8) &&& 0xF8) ++ 0#16 = 0x000000#24) (by decide) hb)⟩

theorem wr8Wdata (b : Nat) (v : Byte) : Statement (.wr8Wdata b v) := fun hb =>
  ⟨_, _, rfl, (busw_byte_and _ 0xF8 v).trans
    (bank_request (P := fun b => (((1#1 ++ 0#1) ++ BitVec.ofNat 6 (0x00 + b) : BitVec 8) &&& 0xF8) ++ 0#16 = 0x800000#24) (by decide) hb)⟩

theorem rd8Rdata (b : Nat) : Statement (.rd8Rdata b) := fun hb =>
  ⟨_, _, rfl, (busw_and _ 0xF8 _).trans
    (bank_request (P := fun b => (((0#1 ++ 0#1) ++ BitVec.ofNat 6 (0x08 + b) : BitVec 8) &&& 0xF8) ++ 0#16 = 0x080000#24) (by decide) hb)⟩

theorem wr8Rdata (b : Nat) (v : Byte) : Statement (.wr8Rdata b v) := fun hb =>
  ⟨_, _, rfl, (busw_byte_and _ 0xF8 v).trans
    (bank_request (P := fun b => (((1#1 ++ 0#1) ++ BitVec.ofNat 6 (0x08 + b) : BitVec 8) &&& 0xF8) ++ 0#16 = 0x880000#24) (by decide) hb)⟩

theorem rd16Evcfg (b : Nat) : Statement (.rd16Evcfg b) := fun hb =>
  ⟨_, _, rfl, (busw_and _ 0xF1 _).trans
    (bank_request (P := fun b => (((0#1 ++ 1#1) ++ BitVec.ofNat 6 (0x10 + 2 * b) : BitVec 8) &&& 0xF1) ++ 0#16 = 0x500000#24) (by decide) hb)⟩

theorem wr16Evcfg (b : Nat) (v : Half) : Statement (.wr16Evcfg b v) := fun hb =>
  ⟨_, _, rfl, (busw_and _ 0xF1 v).trans
    (bank_request (P := fun b => (((1#1 ++ 1#1) ++ BitVec.ofNat 6 (0x10 + 2 * b) : BitVec 8) &&& 0xF1) ++ 0#16 = 0xD00000#24) (by decide) hb)⟩

theorem rd8Evsts (b : Nat) : Statement (.rd8Evsts b) := fun hb =>
  ⟨_, _, rfl, (busw_and _ 0xF8 _).trans
    (bank_request (P := fun b => (((0#1 ++ 0#1) ++ BitVec.ofNat 6 (0x20 + b) : BitVec 8) &&& 0xF8) ++ 0#16 = 0x200000#24) (by decide) hb)⟩

theorem wr8Evsts (b : Nat) (v : Byte) : Statement (.wr8Evsts b v) := fun hb =>
  ⟨_, _, rfl, (busw_byte_and _ 0xF8 v).trans
    (bank_request (P := fun b => (((1#1 ++ 0#1) ++ BitVec.ofNat 6 (0x20 + b) : BitVec 8) &&& 0xF8) ++ 0#16 = 0xA00000#24) (by decide) hb)⟩

theorem rd8Ctrl : Statement .rd8Ctrl := fun _ => ⟨_, _, rfl, busw_and _ 0xFF _⟩

theorem wr8Ctrl (v : Byte) : Statement (.wr8Ctrl v) := fun _ => ⟨_, _, rfl, busw_byte_and _ 0xFF v⟩

theorem rd8Clkcfg : Statement .rd8Clkcfg := fun _ => ⟨_, _, rfl, busw_and _ 0xFF _⟩

theorem wr8Clkcfg (v : Byte) : Statement (.wr8Clkcfg v) := fun _ => ⟨_, _, rfl, busw_byte_and _ 0xFF v⟩

theorem rd8Portcfg : Statement .rd8Portcfg := fun _ => ⟨_, _, rfl, busw_and _ 0xFF _⟩

theorem wr8Portcfg (v : Byte) : Statement (.wr8Portcfg v) := fun _ => ⟨_, _, rfl, busw_byte_and _ 0xFF v⟩

end EncodesItsRow

end Sys2Proof.Laws
end

