-- ==== Sys2Proof/Tests/Slice0.lean ====
section
/-! SUPPORT. Tests: words and results written out from the spec (30_encoding.md, 95_test_vectors.md), and for every statement with
hypotheses a concrete case that meets them all. -/

namespace Sys2Proof.Tests

open Sys2Proof Sys2Proof.Machine

/-! ### Well-formedness: one refused term for each check, and the greatest term it accepts -/

theorem test_line_128_refused : (Instr.get 128).wellFormed = false := by decide

theorem test_line_127_accepted : (Instr.settype 127 0b1111).wellFormed = true := by decide

theorem test_bank_8_refused : (Instr.wr16Evcfg 8 0).wellFormed = false := by decide

theorem test_bank_7_accepted : (Instr.wr16Evcfg 7 0xFFFF).wellFormed = true := by decide

/-! ### Decoding: every row of the operation map on a word written out from its encoding (R86, R87; 95_test_vectors.md 2.1, 2.11) -/

theorem test_decode_bring_up :
    decode (.opw 0b0000000000000000) = .ok .init ∧ decode (.opw 0b0001000000000000) = .ok .clksel ∧
    decode (.opw 0b0010000000000000) = .ok .portw ∧ decode (.opw 0b0011000100000000) = .ok (.ifen true) ∧
    decode (.opw 0b0011000000000000) = .ok (.ifen false) := by decide

theorem test_decode_line_io :
    decode (.opw 0b0100000001111111) = .ok (.dirget 127) ∧ decode (.opw 0b0101000100000011) = .ok (.dirset 3 .input) ∧
    decode (.opw 0b0101000000000011) = .ok (.dirset 3 .output) ∧ decode (.opw 0b0110000100000010) = .ok (.dirout 2 true) ∧
    decode (.opw 0b0111000000001000) = .ok (.get 8) ∧ decode (.opw 0b1000000100000101) = .ok (.set 5 true) := by decide

theorem test_decode_interrupt_chip :
    decode (.opw 0b1001001100010000) = .ok (.settype 16 0b0011) ∧ decode (.opw 0b1010000000001101) = .ok (.mask 13) ∧
    decode (.opw 0b1011000000001101) = .ok (.unmask 13) ∧ decode (.opw 0b1100000000001101) = .ok (.ack 13) ∧
    decode (.opw 0b1101000000000000) = .ok .dispatch := by decide

theorem test_decode_bank_transactions :
    decode (.busw 0b000000110000000000000000) = .ok (.rd8Wdata 3) ∧
    decode (.busw 0b100000110000000011000011) = .ok (.wr8Wdata 3 0xC3) ∧
    decode (.busw 0b000011110000000000000000) = .ok (.rd8Rdata 7) ∧
    decode (.busw 0b100010000000000011111111) = .ok (.wr8Rdata 0 0xFF) ∧
    decode (.busw 0b010101000000000000000000) = .ok (.rd16Evcfg 2) ∧
    decode (.busw 0b110101001111111111111111) = .ok (.wr16Evcfg 2 0xFFFF) ∧
    decode (.busw 0b001000000000000000000000) = .ok (.rd8Evsts 0) ∧
    decode (.busw 0b101000000000000000100000) = .ok (.wr8Evsts 0 0x20) := by decide

theorem test_decode_global_transactions :
    decode (.busw 0b001010000000000000000000) = .ok .rd8Ctrl ∧
    decode (.busw 0b101010000000000010000100) = .ok (.wr8Ctrl 0x84) ∧
    decode (.busw 0b001010100000000000000000) = .ok .rd8Clkcfg ∧
    decode (.busw 0b101010100000000000111100) = .ok (.wr8Clkcfg 0x3C) ∧
    decode (.busw 0b001010110000000000000000) = .ok .rd8Portcfg ∧
    decode (.busw 0b101010110000000000010010) = .ok (.wr8Portcfg 0x12) := by decide

theorem test_reserved_words :
    decode (.opw 0xE000) = .error .reservedOpc ∧ decode (.opw 0xF123) = .error .reservedOpc ∧
    decode (.opw 0x8185) = .error .bit7Set ∧ decode (.opw 0x8305) = .error .unusedField ∧
    decode (.opw 0xD001) = .error .unusedField ∧ decode (.opw 0x0001) = .error .unusedField ∧
    decode (.opw 0xA10D) = .error .unusedField := by decide

theorem test_undefined_transactions :
    decode (.busw 0x290000) = .error .undefinedOffset ∧ decode (.busw 0x100000) = .error .byteAccessToEvcfg ∧
    decode (.busw 0x510000) = .error .halfAccess ∧ decode (.busw 0xC00000) = .error .halfAccess ∧
    decode (.busw 0xAC0000) = .error .undefinedOffset ∧ decode (.busw 0x800100) = .error .highData := by decide

/-- The example lines of R95's syntax. -/
theorem test_asm :
    (Instr.settype 13 0b0001).asm = "SETTYPE 13, rising" ∧ (Instr.dirset 3 .input).asm = "DIRSET 3, in" ∧
    (Instr.rd16Evcfg 2).asm = "RD16 EVCFG[2]" := by decide

/-! ### Small states -/

/-- The scenario's parameters with other line counts. -/
def counts (nout nin : Nat) : Params := { Params.scenario with nout := some nout, nin := some nin }

/-- A machine that is up, its interface enabled in periodic mode, every other register zero. -/
def up (nout nin : Nat) : State :=
  { State.resetWith (counts nout nin) ResetDraw.zero with ctrl := 0x84, devstate := .up, portcfg := 0x12, portWritten := true }

/-- A bank array with one entry set. -/
def only {w : Nat} (b : Nat) (x : BitVec w) : Vector (BitVec w) 8 := putEntry (Vector.replicate 8 0) b x

/-- The state after the step that runs a placed word. -/
def ran (nbits w : Nat) (s : State) : Option State :=
  match step (s.withFetchWord nbits w) with
  | .next t => some t
  | _ => none

/-- Whether the step that runs a placed word is refused for a reason. -/
def refused (nbits w : Nat) (why : Refusal) (s : State) : Bool :=
  match step (s.withFetchWord nbits w) with
  | .refused r => decide (r = why)
  | _ => false

/-- The outputs of the step that runs a placed word. -/
def outputs (nbits w : Nat) (s : State) : Option (List Event) := (ran nbits w s).map (fun t => t.trace)

/-! ### Bring-up, clock, port width, interface enable (95_test_vectors.md 2.3, 2.4, 2.5, 2.10) -/

/-- P1 step 2: polarity bits of `CLKCFG` are kept. -/
theorem test_init : outputs 16 0x0000 { State.reset with clkcfg := 0x30 } = some
    [.read 0 .clkcfg 0x30, .write 0 .clkcfg 0x30, .write 0 .portcfg 0x11, .read 0 .portcfg 0x11, .read 0 .ctrl 0x00,
      .write 0 .ctrl 0x84, .done 0 .ok] := by decide

/-- I8. -/
theorem test_init_twice : refused 16 0x0000 .initTwice (up 8 8) = true := by decide

/-- `REQ_HZ = 8000000` with `CLKCFG = 0x35`. -/
theorem test_clksel : outputs 16 0x1000
    { State.resetWith { Params.scenario with reqHz := some 8000000 } ResetDraw.zero with clkcfg := 0x35 } = some
    [.read 0 .clkcfg 0x35, .write 0 .clkcfg 0x3C, .done 0 .ok] := by decide

/-- K16: equal to the last candidate. -/
theorem test_clksel_exhausted : outputs 16 0x1000
    (State.resetWith { Params.scenario with reqHz := some 12500000 } ResetDraw.zero) = some
    [.done 0 (.error .dividerTableExhausted)] := by decide

/-- W1, with a chip that does not hold the output nibble. -/
theorem test_portw_mismatch : outputs 16 0x2000
    (State.resetWith { counts 3 10 with portReadback := [(0x12, 0x02)] } ResetDraw.zero) = some
    [.write 0 .portcfg 0x12, .read 0 .portcfg 0x02, .done 0 (.error .portWidthReadbackMismatch)] := by decide

/-- W8. -/
theorem test_portw : outputs 16 0x2000 (State.resetWith (counts 56 57) ResetDraw.zero) = some
    [.write 0 .portcfg 0x78, .read 0 .portcfg 0x78, .done 0 .ok] := by decide

/-- E3: bits 2:1 are forced, the others kept. -/
theorem test_ifen_on : outputs 16 0x3100 { State.reset with ctrl := 0x7B } = some
    [.read 0 .ctrl 0x7B, .write 0 .ctrl 0xFD, .done 0 .ok] := by decide

/-- E4. -/
theorem test_ifen_off : outputs 16 0x3000 { State.reset with ctrl := 0xFF } = some
    [.read 0 .ctrl 0xFF, .write 0 .ctrl 0x7D, .done 0 .ok] := by decide

/-- K1, K7, K9, K13, K15, K17: the divider selector. -/
theorem test_divider :
    (([0, 781250, 1953125, 8333333, 12499999, 12500001] : List Nat).map fun req => selectDivider 25000000 req npcm750) =
      [some 0x0, some 0x5, some 0x5, some 0xD, some 0xD, some 0xE] := by decide

/-! ### Line I/O (95_test_vectors.md 2.6) -/

/-- L1, L2. -/
theorem test_dirget : outputs 16 0x4007 (up 8 8) = some [.done 0 (.value 0)] ∧
    outputs 16 0x4008 (up 8 8) = some [.done 0 (.value 1)] := by decide

/-- L3, L4. -/
theorem test_dirset_output : outputs 16 0x5103 (up 8 8) = some [.done 0 (.error .directionMismatch)] ∧
    outputs 16 0x5003 (up 8 8) = some [.done 0 .ok] := by decide

/-- L5, L6. -/
theorem test_dirset_input : outputs 16 0x5109 (up 8 8) = some [.done 0 .ok] ∧
    outputs 16 0x5009 (up 8 8) = some [.done 0 (.error .directionMismatch)] := by decide

/-- L7. -/
theorem test_dirout : outputs 16 0x6102 (up 8 8) = some
    [.read 0 (.bank .wdata 0) 0x00, .write 0 (.bank .wdata 0) 0x04, .done 0 .ok] := by decide

/-- L15: the offset is relative to the inputs. -/
theorem test_get_input : outputs 16 0x7008 { up 8 8 with rdata := only 0 0x01 } = some
    [.read 0 (.bank .rdata 0) 0x01, .done 0 (.value 1)] := by decide

/-- L17. -/
theorem test_get_out_of_range : refused 16 0x7010 .lineOutOfRange (up 8 8) = true := by decide

/-- `SET 15, 0` on `WDATA[1] = 0x85` with `NOUT = 16`. -/
theorem test_set : outputs 16 0x800F { up 16 8 with wdata := only 1 0x85 } = some
    [.read 0 (.bank .wdata 1) 0x85, .write 0 (.bank .wdata 1) 0x05, .done 0 .ok] := by decide

/-- L12, L18. -/
theorem test_set_rejected : outputs 16 0x8108 (up 8 8) = some [.done 0 (.error .directionMismatch)] ∧
    refused 16 0x8105 .deviceDown State.reset = true := by decide

/-! ### The interrupt chip (95_test_vectors.md 2.7) -/

/-- T7: the stale rising bit is kept. -/
theorem test_settype : outputs 16 0x920D { up 8 16 with evcfg := only 0 0x0400 } = some
    [.read 0 .ctrl 0x84, .write 0 .ctrl 0x04, .read 0 (.bank .evcfg 0) 0x0400, .write 0 (.bank .evcfg 0) 0x0C00,
      .read 0 .ctrl 0x04, .write 0 .ctrl 0x84, .done 0 .ok] := by decide

/-- T5: the shadow state. -/
theorem test_settype_shadow : (ran 16 0x980D (up 8 16)).map (fun t => (entry t.trigType 5, stratEntry t.strat 5, t.lock)) =
    some (0b10, .level, .free) := by decide

/-- T9. -/
theorem test_mask : outputs 16 0xA00D { up 8 16 with evcfg := only 0 0x0C03, evsts := only 0 0x21 } = some
    [.read 0 .ctrl 0x84, .write 0 .ctrl 0x04, .read 0 (.bank .evcfg 0) 0x0C03, .write 0 (.bank .evcfg 0) 0x0003,
      .read 0 .ctrl 0x04, .write 0 .ctrl 0x84, .write 0 (.bank .evsts 0) 0x20, .done 0 .ok] := by decide

/-- T18. -/
theorem test_mask_output_line : refused 16 0xA007 .outputLine (up 8 16) = true := by decide

/-- T13: the two merges. -/
theorem test_unmask :
    ([UnmaskMerge.replace, .or].map fun m =>
      (ran 16 0xB00D { up 8 16 with
        params := { counts 8 16 with unmaskMerge := m }
        evcfg := only 0 0x0C00, trigType := putEntry (Vector.replicate 64 0) 5 0b10 }).map (fun t => entry t.evcfg 0)) =
      [some 0x0800, some 0x0C00] := by decide

/-- T15. -/
theorem test_ack : (ran 16 0xC00D { up 8 16 with evsts := only 0 0x21 }).map (fun t => (entry t.evsts 0, t.trace)) =
    some (0x01, [.write 0 (.bank .evsts 0) 0x20, .done 0 .ok]) := by decide

/-! ### The dispatcher and the sampler (95_test_vectors.md 2.8, 2.9) -/

/-- X2, the first delivery: two banks are empty before the pending one. -/
theorem test_dispatch : outputs 16 0xD000 { up 8 64 with evsts := only 2 0x10 } = some
    [.read 0 (.bank .evsts 0) 0, .read 0 (.bank .evsts 1) 0, .read 0 (.bank .evsts 2) 0x10, .deliver 0 28] := by decide

/-- R43: the scan position through a pass, before every step of it: from (0, 0) through the bits of a bank and the banks in ascending order to
(7, 7); the snapshot stands from the bank's read to its last bit. -/
theorem test_scan_position :
    ((List.range 72).all fun n =>
      let f : Frame := ⟨0x00A5, dispatchSteps.drop n, .ok, false⟩
      decide (f.scanPosition = some (n / 9, n % 9 - 1) ∧ f.snapshot = if n % 9 = 0 then none else some 0xA5)) = true := by decide

/-- R43, R193: while the handler of bank 7's bit 7 runs that is the bit being examined, and its return ends the pass. -/
theorem test_last_handler :
    let s := { up 8 64 with ctxs := [⟨[.issue (.opw 0xD000), .handlerReturn], []⟩], evsts := only 7 0x80 }
    (match step s with
     | .next t => (ctxAt t 0).stack.map Frame.scanPosition
     | _ => []) = [some (7, 7)] ∧
    (match Sys2Proof.core.run 2 s with
     | .next t => ((ctxAt t 0).stack, t.trace.getLast?)
     | _ => ([], none)) = ([], some (.done 0 .ok)) := by decide

/-- M1, M3, M7, M8, M9, M10: one sampler step on position 5 of bank 0; configuration, `RDATA`, level, `EVSTS`, `CTRL`. -/
theorem test_sampler :
    (([(0x0400, 0x00, 0x20, 0x00, 0x84), (0x0800, 0x20, 0x00, 0x00, 0x84), (0x0000, 0x00, 0x20, 0x00, 0x84),
        (0x0400, 0x20, 0x20, 0x00, 0x84), (0x0400, 0x00, 0x20, 0x20, 0x84), (0x0400, 0x00, 0x20, 0x00, 0x04)] :
        List (Half × Byte × Lines × Byte × Byte)).map fun (cfg, old, inp, sts, ctrl) =>
      let t := sample inp { up 8 8 with evcfg := only 0 cfg, rdata := only 0 old, evsts := only 0 sts, ctrl := ctrl }
      (entry t.rdata 0, entry t.evsts 0)) =
      [(0x20, 0x20), (0x00, 0x20), (0x20, 0x00), (0x20, 0x00), (0x20, 0x20), (0x00, 0x00)] := by decide

/-! ### Bus transactions (95_test_vectors.md 2.1, B1 to B14) -/

theorem test_rd8_wdata : outputs 24 0x030000 { up 8 8 with wdata := only 3 0x5A } = some
    [.read 0 (.bank .wdata 3) 0x5A, .done 0 (.value 0x5A)] := by decide

theorem test_wr8_wdata : (ran 24 0x8300C3 { up 8 8 with wdata := only 3 0x5A }).map (fun t => (List.range 8).map fun k =>
    outPin t (24 + k)) = some [true, true, false, false, false, false, true, true] := by decide

theorem test_rd8_rdata : outputs 24 0x0F0000 { up 8 8 with rdata := only 7 0x80 } = some
    [.read 0 (.bank .rdata 7) 0x80, .done 0 (.value 0x80)] := by decide

theorem test_wr8_rdata : (ran 24 0x8800FF { up 8 8 with rdata := only 0 0x01 }).map (fun t => t.rdata) =
    some (only 0 0x01) := by decide

theorem test_rd16_evcfg : outputs 24 0x540000 { up 8 8 with evcfg := only 2 0x0C03 } = some
    [.read 0 (.bank .evcfg 2) 0x0C03, .done 0 (.value 0x0C03)] := by decide

theorem test_wr16_evcfg : (ran 24 0xD4FFFF (up 8 8)).map (fun t => t.evcfg) = some (only 2 0xFFFF) := by decide

/-- B7: reading clears nothing. -/
theorem test_rd8_evsts : (ran 24 0x200000 { up 8 8 with evsts := only 0 0x21 }).map (fun t => (t.trace, entry t.evsts 0)) =
    some ([.read 0 (.bank .evsts 0) 0x21, .done 0 (.value 0x21)], 0x21) := by decide

/-- B8 to B11. -/
theorem test_wr8_evsts :
    ([0xA00020, 0xA00000, 0xA000FF, 0xA00002].map fun w =>
      (ran 24 w { up 8 8 with evsts := only 0 0x21 }).map (fun t => entry t.evsts 0)) =
      [some 0x01, some 0x21, some 0x00, some 0x21] := by decide

theorem test_ctrl : (ran 24 0xA80084 State.reset).map (fun t => t.ctrl) = some 0x84 ∧
    outputs 24 0x280000 (up 8 8) = some [.read 0 .ctrl 0x84, .done 0 (.value 0x84)] := by decide

theorem test_clkcfg : (ran 24 0xAA003C State.reset).map (fun t => t.clkcfg) = some 0x3C ∧
    outputs 24 0x2A0000 { up 8 8 with clkcfg := 0x3C } = some [.read 0 .clkcfg 0x3C, .done 0 (.value 0x3C)] := by decide

theorem test_portcfg : (ran 24 0xAB0012 State.reset).map (fun t => t.portcfg) = some 0x12 ∧
    outputs 24 0x2B0000 (up 8 8) = some [.read 0 .portcfg 0x12, .done 0 (.value 0x12)] := by decide

/-! ### Other agents (95_test_vectors.md P1, P6) -/

/-- The source's undefined words and transactions are refused. -/
theorem test_refused_words : refused 16 0xE000 .reservedWord (up 8 8) = true ∧
    refused 24 0x290000 .undefinedTransaction (up 8 8) = true := by decide

/-- A set of turns that lets a sampler step fall between the read and the write of a SET: the step samples, the SET is not disturbed. -/
theorem test_sampler_inside_set :
    (ran 16 0x8105 { up 8 8 with turns := [.ctx 0, .sampler 1] }).map (fun t => (entry t.wdata 0, entry t.rdata 0)) =
      some (0x20, 0x01) := by decide

/-! ### Witnesses: a concrete case that meets the hypotheses of each statement, at the boundaries of its clauses -/

/-- Hypotheses of DecodeInvertsEncode, at the greatest line, type, bank and value. -/
theorem witness_decode_inverts_encode :
    (Instr.settype 127 0xF).wellFormed = true ∧ (Instr.wr8Evsts 7 0xFF).wellFormed = true := by decide

/-- Hypotheses of OperationWordsFollowTheMap and DescriptorsFollowTheMap, with the rows' greatest words. -/
theorem witness_map_rows :
    opRow (.settype 0 0) = some (0x9000, 0xF080) ∧ (0x9F7F : BitVec 16) &&& 0xF080 = 0x9000 ∧
    busRow (.wr16Evcfg 0 0) = some (0xD00000, 0xF10000) ∧ (0xDEFFFF : BitVec 24) &&& 0xF10000 = 0xD00000 := by decide

/-- A machine whose current context issues a word next. -/
def issuing (w : HostWord) : State := { up 8 8 with ctxs := [⟨[.issue w], []⟩] }

/-- It is about to issue that word, by the empty agenda. -/
theorem issuing_about (w : HostWord) : AboutToIssue (issuing w) 0 w [] [] where
  noFault := rfl
  turn := .inl ⟨rfl, rfl, rfl⟩
  request := rfl
  free := rfl

/-- Hypotheses of ReservedWordsAreRefused. -/
theorem witness_reserved_word :
    AboutToIssue (issuing (.opw 0xE000)) 0 (.opw 0xE000) [] [] ∧
    ∀ (j : Instr) (m k : BitVec 16), opRow j = some (m, k) → (0xE000 : BitVec 16) &&& k ≠ m := by
  refine ⟨issuing_about _, fun j m k h => ?_⟩
  cases j <;> cases h <;> decide

/-- Hypotheses of UndefinedTransactionsAreRefused: a context about to issue a listed descriptor; each clause at its boundaries. -/
theorem witness_undefined_transaction :
    AboutToIssue (issuing (.busw 0x100000)) 0 (.busw 0x100000) [] [] ∧
    (([0x100000, 0x1F0000, 0x4E0000, 0x510000, 0x600000, 0x290000, 0x2C0000, 0x3F0000, 0x800100, 0xABFF00] :
      List (BitVec 24)).all fun w => !(decode (.busw w)).toBool) = true ∧
    (([0x0F0000, 0x200000, 0x500000, 0x5E0000, 0x280000, 0x2A0000, 0x2B0000, 0x8000FF, 0x0001FF] :
      List (BitVec 24)).all fun w => (decode (.busw w)).toBool) = true :=
  ⟨issuing_about _, by decide, by decide⟩

/-- Hypotheses of StepRunsTheDecodedInstruction, by the empty agenda and by an agenda that names the context. -/
theorem witness_step_runs :
    AboutToIssue (issuing (.opw 0x8105)) 0 (.opw 0x8105) [] [] ∧ decode (.opw 0x8105) = .ok (.set 5 true) ∧
    AboutToIssue { issuing (.opw 0x8105) with agenda := [.ctx 0, .sampler 1] } 0 (.opw 0x8105) [] [.sampler 1] :=
  ⟨issuing_about _, by decide, ⟨rfl, .inr rfl, rfl, rfl⟩⟩

/-- Hypotheses of PlacedWordRunsNext, at reset, for both formats. -/
theorem witness_placed_word :
    State.reset.fault = [] ∧ State.reset.cur < State.reset.ctxs.length ∧ busy State.reset.cur State.reset = false ∧
    decodeTableWord 16 0x3100 = some (.ifen true) ∧ decodeTableWord 24 0xA80084 = some (.wr8Ctrl 0x84) := by decide

/-- Hypotheses of AccessorAddresses and of WindowTransactionsFollowTheAccessor: a register at its address and width, and an address and
width that no register has. -/
theorem witness_accessor :
    Params.scenario.base = 0xF0101000 ∧ addr Params.scenario (.bank .evcfg 3) = some 0xF0101016 ∧ regBytes (.bank .evcfg 3) = 2 ∧
    ∀ r, addr Params.scenario r = some 0xF0101029 → regBytes r ≠ 1 := by
  refine ⟨rfl, rfl, rfl, fun r h => ?_⟩
  exfalso
  cases r with
  | bank k b =>
    cases k <;> simp [addr, regOffset, kindOffset, Params.scenario] at h <;> omega
  | ctrl => cases h
  | clkcfg => cases h
  | portcfg => cases h

/-- Hypotheses of BadBankIsALogicFault: bank 8, and a machine with a record in FAULT. -/
theorem witness_bad_bank :
    (up 8 8).quiet ∧ (up 8 8).fault = [] ∧
    Instr.wr16Evcfg 8 0 ∈ [Instr.rd8Wdata 8, .wr8Wdata 8 0, .rd8Rdata 8, .wr8Rdata 8 0, .rd16Evcfg 8, .wr16Evcfg 8 0,
      .rd8Evsts 8, .wr8Evsts 8 0] ∧
    State.fault { up 8 8 with fault := [.badRegisterKind] } ≠ [] := ⟨rfl, rfl, by decide, by decide⟩

/-- Hypotheses of the statements about bus transactions: an undisturbed machine, banks 0 and 7, and of the read-back clauses. -/
theorem witness_transactions :
    (up 8 8).quiet ∧ (0 < 8 ∧ 7 < 8) ∧ (up 8 8).params.reservedBits = .stored ∧ State.reset.portWritten = false ∧
    (∀ v : Byte, v ∈ [0x00, 0x88] → (v.extractLsb' 0 4).toNat ≤ 8 ∧ (v.extractLsb' 4 4).toNat ≤ 8) ∧
    (up 8 8).portWritten = true ∧ (up 8 8).params.portReadback = [] := ⟨rfl, by decide⟩

/-- Hypotheses of DividerSelectionByThreshold on the table of `npcm750`, each clause at its boundary (K6, K7, K16, K17, K23, K26). -/
theorem witness_divider :
    npcm750.Pairwise (fun e f => 25000000 / e.div ≤ 25000000 / f.div) ∧ 1 < npcm750.length ∧
    781249 < 25000000 / (npcm750[1]'(by decide)).div ∧
    (25000000 / (npcm750[1]'(by decide)).div ≤ 781250 ∧ 781250 < 25000000 / (npcm750[2]'(by decide)).div) ∧
    5 + 1 = npcm750.length ∧ 25000000 / (npcm750[5]'(by decide)).div < 12500001 ∧
    12500000 = 25000000 / (npcm750[5]'(by decide)).div ∧ 6250000 ≤ 25000000 / (ClkEntry.mk 4 0xC).div := by decide

/-- Hypotheses of ClkselWritesTheSelection and of InitBringsTheDeviceUp, at reset. -/
theorem witness_clksel :
    State.reset.quiet ∧ State.reset.devstate = .down ∧ State.reset.params.refHz = some 25000000 ∧
    State.reset.params.reqHz = some 50000 ∧ State.reset.params.nin = some 8 ∧ State.reset.params.nout = some 8 ∧
    hasZeroDivisor State.reset.params.clktab = false ∧ selectDivider 25000000 50000 State.reset.params.clktab = some 0 ∧
    portReadback State.reset.params (portByte State.reset.params) = portByte State.reset.params ∧
    State.reset.params.reservedBits = .stored := ⟨rfl, by decide⟩

/-- Hypotheses of the second clause of ClkselWritesTheSelection: no reference clock. -/
theorem witness_clksel_absent :
    let s := State.resetWith { Params.scenario with refHz := none } ResetDraw.zero
    s.quiet ∧ s.params.refHz = none ∧ hasZeroDivisor s.params.clktab = false := ⟨rfl, by decide⟩

/-- Hypotheses of ClkselExhaustedChangesNothing and of the last clause of InitFailsBeforeTheHardware (I6, K16). -/
theorem witness_clksel_exhausted :
    let s := State.resetWith { counts 64 64 with reqHz := some 12500000 } ResetDraw.zero
    s.devstate = .down ∧ s.params.nin = some 64 ∧ s.params.nout = some 64 ∧ s.params.refHz = some 25000000 ∧
    s.params.reqHz = some 12500000 ∧ hasZeroDivisor s.params.clktab = false ∧
    selectDivider 25000000 12500000 s.params.clktab = none := by decide

/-- Hypotheses of PortwWritesAndChecks at the greatest counts, and of IfenRewritesCtrl. -/
theorem witness_portw : (up 64 64).quiet ∧ (up 64 64).params.nin = some 64 ∧ (up 64 64).params.nout = some 64 ∧
    (up 64 64).params.portReadback = [] ∧ (up 64 64).params.reservedBits = .stored := ⟨rfl, by decide⟩

/-- Hypotheses of the other clauses of InitFailsBeforeTheHardware, on machines that are down (I2 to I5). -/
theorem witness_init_fails :
    (State.resetWith { counts 8 8 with nout := none } ResetDraw.zero).params.nout = none ∧
    (State.resetWith { counts 8 8 with reqHz := none } ResetDraw.zero).params.reqHz = none ∧
    (State.resetWith (counts 8 65) ResetDraw.zero).params.nin = some 65 ∧
    (State.resetWith (counts 65 64) ResetDraw.zero).params.nout = some 65 ∧
    (State.resetWith { counts 64 64 with refHz := none } ResetDraw.zero).params.refHz = none ∧
    (State.resetWith { counts 64 64 with refHz := none } ResetDraw.zero).devstate = .down ∧
    hasZeroDivisor (State.resetWith { counts 64 64 with refHz := none } ResetDraw.zero).params.clktab = false := by decide

/-- Hypotheses of InitReadbackMismatchLeavesTheDeviceDown (I7). -/
theorem witness_init_mismatch :
    let s := State.resetWith { counts 3 10 with portReadback := [(0x12, 0x02)] } ResetDraw.zero
    s.quiet ∧ s.devstate = .down ∧ s.params.nin = some 10 ∧ s.params.nout = some 3 ∧ s.params.reqHz = some 50000 ∧
    s.params.refHz = some 25000000 ∧ hasZeroDivisor s.params.clktab = false ∧
    selectDivider 25000000 50000 s.params.clktab = some 0 ∧
    portReadback s.params (portByte s.params) ≠ portByte s.params := ⟨rfl, by decide⟩

/-- Hypotheses of InitRefusals: a machine that is up; machines that are down with a divisor of 0 in the table, the second also with a
property absent and a count above 64 (entry 12). -/
theorem witness_init_refusals :
    let zero (p : Params) := State.resetWith { p with clktab := [⟨4, 0xC⟩, ⟨0, 0xE⟩] } ResetDraw.zero
    (up 8 8).devstate = .up ∧ hasZeroDivisor (zero (counts 8 8)).params.clktab = true ∧ (zero (counts 8 8)).devstate = .down ∧
    (let s := zero { counts 65 8 with reqHz := none }
     hasZeroDivisor s.params.clktab = true ∧ s.devstate = .down ∧ s.params.nout = some 65 ∧ s.params.reqHz = none) := by decide

/-- Hypotheses of LineIndexMapper and LineNumberInvertsInputCoordinates at their boundaries (95_test_vectors.md 2.2). -/
theorem witness_line_mapper : (0 < 64 ∧ 63 < 64) ∧ 7 < 8 ∧ 8 * 7 + 7 < (counts 64 64).ninN ∧
    63 < (counts 64 64).noutN + (counts 64 64).ninN ∧ 127 < (counts 64 64).noutN + (counts 64 64).ninN ∧
    validLine (counts 64 64) 63 = .outputUse ∧ validLine (counts 64 64) 64 = .inputUse ∧
    validLine (counts 64 64) 127 = .inputUse ∧ validLine (counts 8 16) 24 = .invalid ∧ vline (counts 3 10) 1 1 = 12 := by decide

/-- Hypotheses of the statements about lines and their refusals: the last output line, the first and the last input line, the first line
past them; a machine that is down. -/
theorem witness_lines :
    (up 64 64).quiet ∧ (up 64 64).devstate = .up ∧ 63 < (up 64 64).params.noutN ∧ (up 64 64).params.noutN ≤ 64 ∧
    127 < (up 64 64).params.noutN + (up 64 64).params.ninN ∧ (up 64 64).params.ninN ≤ 64 ∧
    (up 8 16).params.noutN + (up 8 16).params.ninN ≤ 24 ∧ State.reset.devstate = .down ∧
    Instr.dirout 63 true ∈ [Instr.set 63 true, .dirout 63 true] := ⟨rfl, by decide⟩

/-- Hypotheses of SetLeavesOtherOutputsAlone, and of the first clause of StepKeepsParametersAndRecords. -/
theorem witness_set : ∃ t, exec (.set 63 true) (up 64 64) = .next t := ⟨_, rfl⟩

/-- Hypotheses of SlotsAreIndependent, and of TriggerTypesMapToCodes with the first and the last input line. -/
theorem witness_slots : (0 < 8 ∧ 7 < 8) ∧ (0 : BitVec 4).toNat ∉ [1, 2, 3, 4, 8] ∧ (15 : BitVec 4).toNat ∉ [1, 2, 3, 4, 8] ∧
    (up 64 64).devstate = .up ∧ (up 64 64).params.noutN ≤ 64 ∧ 127 < (up 64 64).params.noutN + (up 64 64).params.ninN := by
  decide

/-- Hypotheses of InvalidArgumentChangesNothing. -/
theorem witness_invalid_argument : ∃ t, exec (.settype 8 5) (up 8 16) = .next t ∧
    .done 0 (.error .unsupportedTriggerType) ∈ t.trace.drop (up 8 16).trace.length ∧
    Err.errClass .unsupportedTriggerType = .invalidArgument := ⟨_, rfl, by decide, rfl⟩

/-- Hypotheses of the statements about SETTYPE, MASK, UNMASK and ACK, on the first and the last input line. -/
theorem witness_interrupt_chip :
    (up 64 64).quiet ∧ (up 64 64).devstate = .up ∧ (up 64 64).lock = .free ∧ (up 64 64).params.noutN ≤ 64 ∧
    64 < (up 64 64).params.noutN + (up 64 64).params.ninN ∧ 127 < (up 64 64).params.noutN + (up 64 64).params.ninN ∧
    (up 64 64).params.ninN ≤ 64 ∧ triggerOf 0b1000 = some (0b10, .level) := ⟨rfl, by decide⟩

/-- Hypotheses of SiblingsAreIsolatedUnderTheSampler: the sampler steps inside the operation. -/
theorem witness_siblings :
    let s := { up 8 16 with turns := [.ctx 0, .sampler 0xFFFF, .ctx 0, .sampler 0] }
    onlySampler s.cur s.turns = true ∧ s.devstate = .up ∧ s.lock = .free ∧ s.params.noutN ≤ 8 ∧
    8 < s.params.noutN + s.params.ninN ∧ s.params.ninN ≤ 64 ∧ (8 : BitVec 4).toNat ∈ [1, 2, 3, 4, 8] ∧
    Instr.unmask 8 ∈ [Instr.settype 8 8, .mask 8, .unmask 8] := by decide

/-- Hypotheses of the first clause of LockedOperationsWaitForTheLock, on the last input line. -/
theorem witness_lock_held :
    let s := { up 8 16 with lock := .held 1 }
    s.quiet ∧ s.devstate = .up ∧ s.lock = .held 1 ∧ s.params.noutN ≤ 23 ∧ 23 < s.params.noutN + s.params.ninN ∧
    triggerOf 1 = some (0b01, .edge) := ⟨rfl, by decide⟩

/-- Hypotheses of its second clause: a MASK that waited. -/
theorem witness_waited :
    let s := { up 8 16 with ctxs := [⟨[], [⟨0, maskSteps 15, .ok, false⟩]⟩] }
    s.fault = [] ∧ s.agenda = [] ∧ (∀ q, (ctxAt s s.cur).requests ≠ .interrupt :: q) ∧ s.devstate = .up ∧
    s.params.noutN ≤ 23 ∧ 23 < s.params.noutN + s.params.ninN ∧ triggerOf 1 = some (0b01, .edge) ∧
    (ctxAt s s.cur).stack = ⟨0, maskSteps (23 - s.params.noutN), .ok, false⟩ :: [] :=
  ⟨rfl, rfl, fun q => show [] ≠ .interrupt :: q from (List.cons_ne_nil .interrupt q).symm, by decide⟩

/-- Hypotheses of its third clause: an ACK set aside inside its locked body. -/
theorem witness_set_aside :
    let f : Frame := ⟨0, [clearStatus 0 0, .release], .ok, false⟩
    let s := { up 8 16 with lock := .held 0, ctxs := [⟨[], [f]⟩] }
    s.fault = [] ∧ s.agenda = [] ∧ s.quiet ∧ (∀ q, (ctxAt s s.cur).requests ≠ .interrupt :: q) ∧
    (ctxAt s s.cur).stack = f :: [] ∧ f.inHandler = false ∧ f.Sound s.params ∧
    (.acquire ∈ f.todo → s.lock = .free ∨ f.insideLock = true) ∧ (∀ b k, .scan b k ∉ f.todo) :=
  ⟨rfl, rfl, rfl, fun q => show [] ≠ .interrupt :: q from (List.cons_ne_nil .interrupt q).symm, rfl, rfl, ⟨by decide, by decide, by decide, fun h => nomatch h⟩, by decide,
    by simp [clearStatus]⟩

/-- Hypotheses of EmptyPassReadsAllBanks, and of PassDeliversTheLowestPendingFirst at the last position of all. -/
theorem witness_passes :
    (up 8 64).quiet ∧ (up 8 64).devstate = .up ∧ (∀ b, b < 8 → entry (up 8 64).evsts b = 0) ∧
    (let s := { up 8 64 with evsts := only 7 0x80 }
     s.quiet ∧ s.devstate = .up ∧ (∀ b, b < 7 → entry s.evsts b = 0) ∧
     (∀ k, k < 7 → (entry s.evsts 7).getLsbD k = false) ∧ (entry s.evsts 7).getLsbD 7 = true) :=
  ⟨rfl, by decide, by decide, rfl, by decide⟩

/-- Hypotheses of PassDeliversEveryPendingLineInOrder, with three lines pending (S3). -/
theorem witness_whole_pass :
    let e := putEntry (putEntry (only 0 (0x08 : Byte)) 2 0x10) 6 0x04
    let s := { up 8 64 with
      evsts := e, ctxs := [⟨[.issue (.opw 0xD000), .handlerReturn, .handlerReturn, .handlerReturn], []⟩] }
    s.quiet ∧ s.fault = [] ∧ s.agenda = [] ∧ s.devstate = .up ∧ busy s.cur s = false ∧
    s.ctxs[s.cur]? = some ⟨.issue (.opw 0xD000) :: (List.replicate (pendingCount s) .handlerReturn ++ []), []⟩ :=
  ⟨rfl, by decide⟩

/-- Hypotheses of SamplerLatchesSelectedTransitions and EverySamplerKeepsItsBounds: the sampler of R190 in force, and disabled; a masked
position. -/
theorem witness_sampler :
    (up 8 8).ctrl.getLsbD 7 = true ∧ (up 8 8).ctrl.extractLsb' 1 2 = (up 8 8).params.rdModePeriodic ∧
    (up 8 8).params.sampler = .exact ∧ State.reset.ctrl.getLsbD 7 = false ∧ slotAt (up 8 8) 63 = 0 ∧
    pending { up 8 8 with evsts := only 7 0x80 } 63 = true := by decide

/-- Hypotheses of the first clause of EverySamplerKeepsItsBounds: the sampler's turn. -/
theorem witness_sampler_turn :
    let s := { up 8 8 with agenda := [.sampler 1, .ctx 0] }
    s.fault = [] ∧ s.agenda = .sampler 1 :: [.ctx 0] := by decide

/-- Hypotheses of InterruptEntryIsADispatch, clause by clause. -/
theorem witness_interrupt :
    let s := { up 8 8 with ctxs := [⟨[.interrupt], []⟩], evsts := only 7 0x80 }
    s.fault = [] ∧ s.agenda = [] ∧ (ctxAt s s.cur).requests = [.interrupt] ∧ s.lock ≠ .held s.cur ∧ irq s = true ∧
    irq { s with evsts := only 7 0 } = false ∧ State.lock { s with lock := .held 0 } = .held 0 := by decide

/-- A machine in which context 0 was set aside inside the locked body of ACK and context 1 waits for the lock. -/
def contended : State :=
  { up 8 8 with
    lock := .held 0
    ctxs := [⟨[], [⟨0, [clearStatus 0 0, .release], .ok, false⟩]⟩, ⟨[], [⟨0, ackSteps 1, .ok, false⟩]⟩] }

/-- Hypotheses of StepKeepsSoundness, StepKeepsParametersAndRecords and OnlyTheSamplerSetsStatus: a sound machine whose next step goes on
with a locked body. -/
theorem witness_sound_step : contended.Sound ∧ contended.samplerIdle = true ∧ ∃ t, step contended = .next t := by
  refine ⟨⟨rfl, fun _ => by decide, fun c f hf => ?_, fun c => ?_⟩, by decide, ⟨_, rfl⟩⟩
  · match c with
    | 0 =>
      obtain rfl : f = ⟨0, [clearStatus 0 0, .release], .ok, false⟩ := by simpa [contended, ctxAt] using hf
      exact ⟨by decide, by decide, by decide, fun h => nomatch h⟩
    | 1 =>
      obtain rfl : f = ⟨0, ackSteps 1, .ok, false⟩ := by simpa [contended, ctxAt] using hf
      exact ⟨by decide, by decide, by decide, fun h => nomatch h⟩
    | c + 2 => simp [contended, ctxAt] at hf
  · match c with
    | 0 => decide
    | 1 => decide
    | c + 2 => simp [contended, ctxAt, lockHolders]

end Sys2Proof.Tests
end

section
/-! PROOF. The encodings of 30_encoding.md: which operation words match a row of the operation map (R86), and which bus transaction
descriptors decode to nothing and are refused (R91). -/

namespace Sys2Proof

/-! ### Operation words, field by field -/

/-- The operation word with given fields (R70). -/
def joinOpw (f : OpFields) : BitVec 16 := ((f.opc ++ f.arg) ++ f.z) ++ f.line

/-- A word is the word of its fields. -/
theorem joinOpw_splitOpw (w : BitVec 16) : joinOpw (splitOpw w) = w := by
  have harg : w.extractLsb' 12 4 ++ w.extractLsb' 8 4 = w.extractLsb' 8 8 :=
    BitVec.extractLsb'_append_extractLsb'_eq_extractLsb' rfl
  have hz : w.extractLsb' 8 8 ++ w.extractLsb' 7 1 = w.extractLsb' 7 9 :=
    BitVec.extractLsb'_append_extractLsb'_eq_extractLsb' rfl
  have hline : w.extractLsb' 7 9 ++ w.extractLsb' 0 7 = w.extractLsb' 0 16 :=
    BitVec.extractLsb'_append_extractLsb'_eq_extractLsb' rfl
  simp only [joinOpw, splitOpw]
  rw [harg, hz, hline, BitVec.extractLsb'_eq_self]

/-- The fields of a word put together are those it was made of. -/
theorem splitOpw_joinOpw (f : OpFields) : splitOpw (joinOpw f) = f := by
  obtain ⟨opc, arg, z, line⟩ := f
  have h : joinOpw ⟨opc, arg, z, line⟩ = ((opc ++ arg) ++ z : BitVec 9) ++ line := rfl
  simp only [splitOpw, OpFields.mk.injEq, h, BitVec.extractLsb'_append_eq_ite]
  simp

theorem splitOpw_injective : Function.Injective splitOpw :=
  Function.LeftInverse.injective joinOpw_splitOpw

/-- Masking a word masks its fields. -/
theorem splitOpw_and (w k : BitVec 16) :
    splitOpw (w &&& k) =
      { opc := (splitOpw w).opc &&& (splitOpw k).opc, arg := (splitOpw w).arg &&& (splitOpw k).arg,
        z := (splitOpw w).z &&& (splitOpw k).z, line := (splitOpw w).line &&& (splitOpw k).line } := by
  simp only [splitOpw, BitVec.extractLsb'_and]

/-! ### Masks of the fields -/

theorem arg_and_all (x : BitVec 4) : x &&& 15#4 = x := by decide +revert

theorem z_and_all (x : BitVec 1) : x &&& 1#1 = x := by decide +revert

theorem line_and_all (x : BitVec 7) : x &&& 127#7 = x := BitVec.and_allOnes

/-- The decoder's check that only bit 8 of `ARG` is used, as a mask (R86). -/
theorem arg_high_eq_zero_iff (x : BitVec 4) : x.extractLsb' 1 3 = 0#3 ↔ x &&& 14#4 = 0#4 := by decide +revert

/-! ### The rows of the operation map -/

/-- The bits of `ARG` and of `LINE` that an operation with this opcode does not use; none for a reserved opcode (R86, R90). -/
def opcFormat (opc : BitVec 4) : Option (BitVec 4 × BitVec 7) :=
  match opc.toNat with
  | 0x0 | 0x1 | 0x2 | 0xD => some (0xF, 0x7F)
  | 0x3 => some (0xE, 0x7F)
  | 0x4 | 0x7 | 0xA | 0xB | 0xC => some (0xF, 0)
  | 0x5 | 0x6 | 0x8 => some (0xE, 0)
  | 0x9 => some (0, 0)
  | _ => none

/-- The match and mask of the row of opcode `opc` with the unused bits `a` of `ARG` and `l` of `LINE` (R70, R86). -/
def rowOf (opc a : BitVec 4) (l : BitVec 7) : BitVec 16 × BitVec 16 :=
  (joinOpw ⟨opc, 0, 0, 0⟩, joinOpw ⟨15#4, a, 1#1, l⟩)

/-- Bit 7, and the bits `a` of `ARG` and `l` of `LINE`, are zero (R90). -/
def OpFields.UnusedZero (f : OpFields) (a : BitVec 4) (l : BitVec 7) : Prop :=
  f.z = 0 ∧ f.arg &&& a = 0 ∧ f.line &&& l = 0

/-- A word matches a row when it has the row's opcode and the bits the row does not use are zero. -/
theorem and_rowOf_iff (w : BitVec 16) (opc a : BitVec 4) (l : BitVec 7) :
    w &&& (rowOf opc a l).2 = (rowOf opc a l).1 ↔ (splitOpw w).opc = opc ∧ (splitOpw w).UnusedZero a l := by
  rw [← splitOpw_injective.eq_iff]
  simp only [rowOf, splitOpw_and, splitOpw_joinOpw, OpFields.mk.injEq, OpFields.UnusedZero, arg_and_all, z_and_all]
  tauto

/-- A row tells its opcode and the bits it does not use. -/
theorem rowOf_inj {opc opc' a a' : BitVec 4} {l l' : BitVec 7} :
    rowOf opc a l = rowOf opc' a' l' ↔ opc = opc' ∧ a = a' ∧ l = l' := by
  have hjoin : Function.Injective joinOpw := Function.LeftInverse.injective splitOpw_joinOpw
  simp [rowOf, hjoin.eq_iff]

/-- Every row of the map is the row of an opcode and its format. -/
theorem opRow_eq_rowOf {j : Instr} {r : BitVec 16 × BitVec 16} (h : opRow j = some r) :
    ∃ opc a l, opcFormat opc = some (a, l) ∧ r = rowOf opc a l := by
  cases j <;> cases h
  case init => exact ⟨0x0, _, _, rfl, rfl⟩
  case clksel => exact ⟨0x1, _, _, rfl, rfl⟩
  case portw => exact ⟨0x2, _, _, rfl, rfl⟩
  case ifen => exact ⟨0x3, _, _, rfl, rfl⟩
  case dirget => exact ⟨0x4, _, _, rfl, rfl⟩
  case dirset => exact ⟨0x5, _, _, rfl, rfl⟩
  case dirout => exact ⟨0x6, _, _, rfl, rfl⟩
  case get => exact ⟨0x7, _, _, rfl, rfl⟩
  case set => exact ⟨0x8, _, _, rfl, rfl⟩
  case settype => exact ⟨0x9, _, _, rfl, rfl⟩
  case mask => exact ⟨0xA, _, _, rfl, rfl⟩
  case unmask => exact ⟨0xB, _, _, rfl, rfl⟩
  case ack => exact ⟨0xC, _, _, rfl, rfl⟩
  case dispatch => exact ⟨0xD, _, _, rfl, rfl⟩

/-! ### The row of a decoded operation word -/

/-- Decoding succeeded, with an operation of row `r`. -/
def GivesRow (d : Except DecodeError Instr) (r : BitVec 16 × BitVec 16) : Prop :=
  ∃ i, d = .ok i ∧ opRow i = some r

/-- The fields match row `r`: it is the row of their opcode, and the bits it does not use are zero. -/
def OpFields.MatchRow (f : OpFields) (r : BitVec 16 × BitVec 16) : Prop :=
  ∃ a l, opcFormat f.opc = some (a, l) ∧ f.UnusedZero a l ∧ r = rowOf f.opc a l

theorem not_givesRow_error (e : DecodeError) (r : BitVec 16 × BitVec 16) : ¬ GivesRow (.error e) r := by
  simp [GivesRow]

section
variable {opc arg a : BitVec 4} {line l : BitVec 7} {r : BitVec 16 × BitVec 16}

/-- A decoder that checks the bits which the opcode's format says are unused, and then gives an instruction of the opcode's row, gives
the row the fields match. -/
theorem givesRow_ite_iff {p : Prop} [Decidable p] {e : DecodeError} {i : Instr} (hformat : opcFormat opc = some (a, l))
    (hrow : opRow i = some (rowOf opc a l)) (hp : p ↔ arg &&& a = 0 ∧ line &&& l = 0) :
    GivesRow (if p then .ok i else .error e) r ↔ OpFields.MatchRow ⟨opc, arg, 0, line⟩ r := by
  have hmatch : OpFields.MatchRow ⟨opc, arg, 0, line⟩ r ↔ p ∧ r = rowOf opc a l := by
    simp [OpFields.MatchRow, OpFields.UnusedZero, hformat, hp]
  rw [hmatch]
  split
  case isTrue h => simp [GivesRow, hrow, h, eq_comm]
  case isFalse h => simp [not_givesRow_error, h]

theorem takesNothing_givesRow_iff {i : Instr} (hformat : opcFormat opc = some (0xF, 0x7F))
    (hrow : opRow i = some (rowOf opc 0xF 0x7F)) :
    GivesRow (takesNothing ⟨opc, arg, 0, line⟩ i) r ↔ OpFields.MatchRow ⟨opc, arg, 0, line⟩ r :=
  givesRow_ite_iff hformat hrow (by simp [arg_and_all, line_and_all])

theorem takesLine_givesRow_iff {i : Nat → Instr} (hformat : opcFormat opc = some (0xF, 0))
    (hrow : ∀ o, opRow (i o) = some (rowOf opc 0xF 0)) :
    GivesRow (takesLine ⟨opc, arg, 0, line⟩ i) r ↔ OpFields.MatchRow ⟨opc, arg, 0, line⟩ r :=
  givesRow_ite_iff hformat (hrow _) (by simp [arg_and_all])

theorem takesBitAndLine_givesRow_iff {i : Nat → Bool → Instr} (hformat : opcFormat opc = some (0xE, 0))
    (hrow : ∀ o v, opRow (i o v) = some (rowOf opc 0xE 0)) :
    GivesRow (takesBitAndLine ⟨opc, arg, 0, line⟩ i) r ↔ OpFields.MatchRow ⟨opc, arg, 0, line⟩ r :=
  givesRow_ite_iff hformat (hrow _ _) (by simp [arg_high_eq_zero_iff])

/-- An operation that uses bit 8 alone checks `LINE` first (R86). -/
theorem takesBit_givesRow_iff {i : Nat → Bool → Instr} (hformat : opcFormat opc = some (0xE, 0x7F))
    (hrow : ∀ o v, opRow (i o v) = some (rowOf opc 0xE 0x7F)) :
    GivesRow (if line = 0 then takesBitAndLine ⟨opc, arg, 0, line⟩ i else .error .unusedField) r ↔
      OpFields.MatchRow ⟨opc, arg, 0, line⟩ r := by
  rw [takesBitAndLine, ← ite_and]
  exact givesRow_ite_iff hformat (hrow _ _) (by simp [arg_high_eq_zero_iff, line_and_all, and_comm])

/-- An operation that uses `ARG` and `LINE` has nothing to check (R86). -/
theorem takesAll_givesRow_iff {i : Instr} (hformat : opcFormat opc = some (0, 0)) (hrow : opRow i = some (rowOf opc 0 0)) :
    GivesRow (.ok i) r ↔ OpFields.MatchRow ⟨opc, arg, 0, line⟩ r :=
  givesRow_ite_iff (p := True) (e := .unusedField) hformat hrow (by simp)

end

/-- The fields decode to an operation of row `r` exactly when they match it (R86, R90). -/
theorem decodeFields_givesRow_iff (f : OpFields) (r : BitVec 16 × BitVec 16) : GivesRow (decodeFields f) r ↔ f.MatchRow r := by
  obtain ⟨opc, arg, z, line⟩ := f
  have hz : z = 0 ∨ z = 1 := by decide +revert
  obtain rfl | rfl := hz
  case inr => simp [decodeFields, not_givesRow_error, OpFields.MatchRow, OpFields.UnusedZero]
  obtain ⟨n, hn, rfl⟩ : ∃ n, n < 16 ∧ opc = BitVec.ofNat 4 n := ⟨opc.toNat, opc.isLt, by simp⟩
  match n, hn with
  | 0x0, _ | 0x1, _ | 0x2, _ | 0xD, _ => exact takesNothing_givesRow_iff rfl rfl
  | 0x3, _ => exact takesBit_givesRow_iff rfl fun _ _ => rfl
  | 0x4, _ | 0x7, _ | 0xA, _ | 0xB, _ | 0xC, _ => exact takesLine_givesRow_iff rfl fun _ => rfl
  | 0x5, _ => exact takesBitAndLine_givesRow_iff (i := fun o d => .dirset o (directionOfBit d)) rfl fun _ _ => rfl
  | 0x6, _ | 0x8, _ => exact takesBitAndLine_givesRow_iff rfl fun _ _ => rfl
  | 0x9, _ => exact takesAll_givesRow_iff rfl rfl
  | 0xE, _ | 0xF, _ => exact iff_of_false (not_givesRow_error _ _) fun ⟨_, _, hformat, _⟩ => nomatch hformat
  | n + 16, h => omega

/-! ### Descriptors that decode to nothing -/

/-- A descriptor decodes by its `SZ`, `W`, `OFF` and `DATA` (R71). -/
theorem decodeBusw_eq (w : BitVec 24) :
    decodeBusw w =
      if w.getLsbD 22 then decodeHalf (w.getLsbD 23) (w.extractLsb' 16 6).toNat (w.extractLsb' 0 16)
      else decodeByte (w.getLsbD 23) (w.extractLsb' 16 6).toNat (w.extractLsb' 0 16) := by
  have hoff : (w.extractLsb' 16 8).extractLsb' 0 6 = w.extractLsb' 16 6 := by ext i hi; simp; omega
  simp [decodeBusw, decodeRequest, hoff]

/-- An 8-bit write is undefined when its upper data byte is not zero (R91). -/
theorem takesByte_error_iff (data : BitVec 16) (i : Byte → Instr) :
    (∃ e, takesByte data i = .error e) ↔ data.extractLsb' 8 8 ≠ 0 := by
  rw [takesByte]
  split
  case isTrue h => simp [h]
  case isFalse h => exact iff_of_true ⟨_, rfl⟩ h

/-- A 16-bit transaction is undefined but at an even offset of `EVCFG` (R91). -/
theorem decodeHalf_error_iff (write : Bool) (off : Nat) (data : BitVec 16) :
    (∃ e, decodeHalf write off data = .error e) ↔ ¬ (0x10 ≤ off ∧ off ≤ 0x1E ∧ off % 2 = 0) := by
  have hoff : (0x10 ≤ off ∧ off ≤ 0x1E ∧ off % 2 = 0) ↔ (0x10 ≤ off ∧ off < 0x20 ∧ off % 2 = 0) := by omega
  rw [decodeHalf, hoff]
  split
  case isTrue h => cases write <;> simp [h]
  case isFalse h => simp [h]

/-- The 8-bit transaction of a described offset: a read is always defined, a write when its upper data byte is zero (R91). -/
theorem readOrTakesByte_error_iff (write : Bool) (data : BitVec 16) (wr : Byte → Instr) (rd : Instr) :
    (∃ e, (if write then takesByte data wr else .ok rd) = .error e) ↔ write = true ∧ data.extractLsb' 8 8 ≠ 0 := by
  cases write
  · simp
  · simp only [if_true, takesByte_error_iff, true_and]

/-- The offsets at which the block has no 8-bit transaction: those of `EVCFG`, and those of no register (R91). -/
abbrev NoByteAt (off : Nat) : Prop := (0x10 ≤ off ∧ off ≤ 0x1F) ∨ off = 0x29 ∨ 0x2C ≤ off

/-- An 8-bit transaction is undefined where there is none, and for a write with a nonzero upper data byte (R91). -/
theorem decodeByte_error_iff (write : Bool) (off : Nat) (data : BitVec 16) :
    (∃ e, decodeByte write off data = .error e) ↔ NoByteAt off ∨ (write = true ∧ data.extractLsb' 8 8 ≠ 0) := by
  have defined (wr : Byte → Instr) (rd : Instr) (h : ¬ NoByteAt off) :
      (∃ e, (if write then takesByte data wr else .ok rd) = .error e) ↔
        NoByteAt off ∨ (write = true ∧ data.extractLsb' 8 8 ≠ 0) := by
    rw [readOrTakesByte_error_iff, or_iff_right h]
  have undefined (e : DecodeError) (h : NoByteAt off) :
      (∃ e', Except.error (α := Instr) e = .error e') ↔ NoByteAt off ∨ (write = true ∧ data.extractLsb' 8 8 ≠ 0) :=
    iff_of_true ⟨e, rfl⟩ (.inl h)
  unfold decodeByte
  split
  · exact defined _ _ (by omega)
  split
  · exact defined _ _ (by omega)
  split
  · exact undefined _ (by omega)
  split
  · exact defined _ _ (by omega)
  split
  · exact defined _ _ (by omega)
  split
  · exact defined _ _ (by omega)
  split
  · exact defined _ _ (by omega)
  · exact undefined _ (by omega)

end Sys2Proof

namespace Sys2Proof.Machine

/-! ### The step of a context that issues a word -/

/-- The step of a context about to issue a word is that word, decoded and run (R185). -/
theorem AboutToIssue.step_eq_issue {s : State} {c : Nat} {w : HostWord} {q : List Request} {a : List Agent}
    (h : AboutToIssue s c w q a) : step s = issue w (begun s c q a) := by
  obtain ⟨hfault, hturn, hreq, hfree⟩ := h
  have hact (t : State) (hctxs : t.ctxs = s.ctxs) : act c t = issue w (setRequests c q t) := by
    have hctx : ctxAt t c = ctxAt s c := by simp [ctxAt, hctxs]
    have hbusy : busy c t = false := by simpa [busy, hctx] using hfree
    simp [act, hctx, hreq, hbusy]
  obtain ⟨hag, rfl, rfl⟩ | hag := hturn
  · have hs : { s with agenda := [], cur := s.cur } = s := by rw [← hag]
    rw [begun, hs]
    simp [step, serve, hfault, hag, hact]
  · simp [step, serve, hfault, hag, hact, begun]

/-- A word that decodes to nothing is refused when a context issues it (R90, R91). -/
theorem AboutToIssue.step_refused {s : State} {c : Nat} {w : HostWord} {q : List Request} {a : List Agent} {e : DecodeError}
    (h : AboutToIssue s c w q a) (he : decode w = .error e) : step s = .refused (wordRefusal w) := by
  simp [h.step_eq_issue, issue, he]

end Sys2Proof.Machine

namespace Sys2Proof.Proofs

/-! ### The statements -/

/-- Settles O3: the word's fields decode to an operation of its opcode's row, and every row is the row of its opcode. -/
theorem operationWordsFollowTheMap : Obligations.OperationWordsFollowTheMap := by
  intro j m k w hj
  obtain ⟨opc, a, l, hformat, hrow⟩ := opRow_eq_rowOf hj
  have hmatch := and_rowOf_iff w opc a l
  rw [← hrow] at hmatch
  change GivesRow (decodeFields (splitOpw w)) (m, k) ↔ _
  rw [hmatch, decodeFields_givesRow_iff]
  constructor
  · rintro ⟨a', l', -, hzero, hrow'⟩
    obtain ⟨rfl, rfl, rfl⟩ := rowOf_inj.mp (hrow.symm.trans hrow')
    exact ⟨rfl, hzero⟩
  · rintro ⟨rfl, hzero⟩
    exact ⟨a, l, hformat, hzero, hrow⟩

/-- Settles O6: the decoder's refusals are the four cases of R91, and a word that decodes to nothing is refused by the step. -/
theorem undefinedTransactionsAreRefused : Obligations.UndefinedTransactionsAreRefused := by
  intro w byteAccess off listed
  have hlisted : listed ↔ ∃ e, decode (.busw w) = .error e := by
    have hdata : (w.extractLsb' 0 16).extractLsb' 8 8 = w.extractLsb' 8 8 := by ext i hi; simp
    simp only [decode, decodeBusw_eq]
    by_cases hsz : w.getLsbD 22 = true
    · have hhalf : ¬ byteAccess := by simpa [byteAccess] using hsz
      rw [if_pos hsz, decodeHalf_error_iff]
      simp only [listed, hhalf, not_false_eq_true, true_and, false_and, false_or, or_false]
      omega
    · have hbyte : byteAccess := by simpa [byteAccess] using hsz
      rw [if_neg hsz, decodeByte_error_iff, hdata]
      simp only [listed, hbyte, not_true_eq_false, true_and, false_and, false_or, NoByteAt, or_assoc, off]
  refine ⟨hlisted, fun h s c q a hissue => ?_⟩
  obtain ⟨e, he⟩ := hlisted.mp h
  exact hissue.step_refused he

end Sys2Proof.Proofs
end

section
/-! PROOF. The Register Accessor of 40_register_access.md: the address it gives each register (R100). -/

namespace Sys2Proof.Machine

/-- A register of one of the eight banks stands at `BASE` plus its kind's offset in the bank table (R100). -/
theorem addr_bank (p : Params) (k : Kind) {b : Nat} (hb : b < 8) : addr p (.bank k b) = some (p.base + kindOffset k b) := by
  simp [addr, regOffset, hb]

end Sys2Proof.Machine

namespace Sys2Proof.Proofs

open Sys2Proof.Machine

/-- Settles O10: a bank register by the offset of its kind, a global register by its fixed offset, the example as an instance of the
first. -/
theorem accessorAddresses : Obligations.AccessorAddresses := by
  refine ⟨fun p b hb => ?banks, fun p => ⟨rfl, rfl, rfl⟩, fun p hbase => ?exampleAddress⟩
  case banks => simp only [addr_bank p _ hb, kindOffset, Nat.add_assoc, and_self]
  case exampleAddress => simp only [addr_bank p .evcfg (b := 3) (by omega), hbase, kindOffset, Nat.reduceMul, Nat.reduceAdd]

end Sys2Proof.Proofs
end

section
/-! PROOF. The Line Index Mapper of 41_line_mapper.md: bank and bit of a position (R120), direction of a line (R121), and the valid-line
function (R125). -/

namespace Sys2Proof.Machine

/-! ### Bank and bit of a position -/

/-- The eight banks hold the positions below 64 (R120). -/
theorem bankOf_lt_eight_iff {p : Nat} : bankOf p < 8 ↔ p < 64 :=
  Nat.div_lt_iff_lt_mul (by decide)

theorem bitOf_lt_eight (p : Nat) : bitOf p < 8 :=
  Nat.mod_lt p (by decide)

/-- A position is given back by its bank and bit (R120). -/
theorem eight_mul_bankOf_add_bitOf (p : Nat) : 8 * bankOf p + bitOf p = p :=
  Nat.div_add_mod p 8

/-! ### Direction and use of a line -/

@[simp] theorem isOutput_eq_true_iff {q : Params} {o : Nat} : isOutput q o = true ↔ o < q.noutN :=
  decide_eq_true_iff

@[simp] theorem isInput_eq_true_iff {q : Params} {o : Nat} : isInput q o = true ↔ q.noutN ≤ o ∧ o < q.noutN + q.ninN :=
  decide_eq_true_iff

/-- An output line is valid for output use (R125). -/
theorem validLine_of_isOutput {q : Params} {o : Nat} (h : isOutput q o = true) : validLine q o = .outputUse :=
  if_pos h

/-- An input line is valid for input use: it is no output line, so the order of the tests in `validLine` does not matter (R121, R125). -/
theorem validLine_of_isInput {q : Params} {o : Nat} (h : isInput q o = true) : validLine q o = .inputUse := by
  have hout : ¬ isOutput q o = true := by
    rw [isOutput_eq_true_iff]
    exact Nat.not_lt.mpr (isInput_eq_true_iff.mp h).1
  rw [validLine, if_neg hout, if_pos h]

/-- A line past the last input line is of neither direction, hence invalid (R125). -/
theorem validLine_of_lines_le {q : Params} {o : Nat} (h : q.noutN + q.ninN ≤ o) : validLine q o = .invalid := by
  have hout : ¬ isOutput q o = true := by rw [isOutput_eq_true_iff]; omega
  have hin : ¬ isInput q o = true := by rw [isInput_eq_true_iff]; omega
  rw [validLine, if_neg hout, if_neg hin]

end Sys2Proof.Machine

namespace Sys2Proof.Proofs

open Sys2Proof.Machine

/-- Settles O29: bank and bit by division with remainder, the direction by the offset's side of `NOUT`, the use of a line by its
direction. -/
theorem lineIndexMapper : Obligations.LineIndexMapper := by
  refine ⟨fun p hp => ?bankAndBit, fun q o ho => ?direction, fun q o => ?use⟩
  case bankAndBit =>
    have hbank : bankOf p ≤ 7 := Nat.le_of_lt_succ (bankOf_lt_eight_iff.mpr hp)
    have hbit : bitOf p ≤ 7 := Nat.le_of_lt_succ (bitOf_lt_eight p)
    exact ⟨rfl, rfl, hbank, hbit, (eight_mul_bankOf_add_bitOf p).symm⟩
  case direction => exact ⟨isOutput_eq_true_iff, isInput_eq_true_iff.trans (and_iff_left ho)⟩
  case use =>
    exact ⟨fun hout => validLine_of_isOutput (isOutput_eq_true_iff.mpr hout),
      fun hge hlt => validLine_of_isInput (isInput_eq_true_iff.mpr ⟨hge, hlt⟩), validLine_of_lines_le⟩

end Sys2Proof.Proofs
end

section
/-! PROOF. The Line I/O Engine of 43_line_io.md: DIRGET (R150), DIRSET (R151) and GET (R153), each with its word (R86). -/

namespace Sys2Proof

/-! ### The word of an operation on a line -/

/-- A bit string followed by a number that fits in the bits after it is the OR of the two. -/
theorem append_ofNat_eq_or {n m k : Nat} (x : BitVec n) (hk : k < 2 ^ m) :
    x ++ BitVec.ofNat m k = (x ++ 0#m) ||| BitVec.ofNat (n + m) k := by
  apply BitVec.eq_of_getLsbD_eq
  intro i hi
  simp only [BitVec.getLsbD_or, BitVec.getLsbD_append, BitVec.getLsbD_ofNat, hi, decide_true, Bool.true_and]
  split
  case isTrue hlow => simp [hlow]
  case isFalse hhigh =>
    have hbit : k.testBit i = false :=
      Nat.testBit_lt_two_pow (hk.trans_le (Nat.pow_le_pow_right (by decide) (Nat.not_lt.mp hhigh)))
    simp [hbit]

/-- A line offset that fits `LINE` is ORed into the word of the other fields (R70). -/
theorem opw_eq_or (opc arg : BitVec 4) {o : Nat} (ho : o < 128) :
    opw opc arg o = .opw (joinOpw ⟨opc, arg, 0, 0⟩ ||| BitVec.ofNat 16 o) :=
  congrArg HostWord.opw (append_ofNat_eq_or ((opc ++ arg) ++ 0#1) ho)

end Sys2Proof

namespace Sys2Proof.Machine

/-! ### Operations that end without a transaction, and with one read -/

/-- An operation with no step ends at once: its result is its only output. -/
theorem start_nil (ret : Return) (s : State) :
    start [] ret s = .next { s with trace := s.trace ++ [.done s.cur (ret.eval 0)] } := rfl

/-- An error raised before any step is the operation's only output (R202, R213). -/
theorem raise_eq (e : Err) (s : State) :
    raise e s = .next { s with trace := s.trace ++ [.done s.cur (.error e)] } := rfl

/-- One bit of an 8-bit value read (R153). -/
theorem eval_bit_setWidth (r : Byte) {k : Nat} (hk : k < 8) :
    (Return.bit k).eval (r.setWidth 16) = .value (if r.getLsbD k then 1 else 0) := by
  have hk' : k < 16 := by omega
  simp [Return.eval, hk']

/-- An undisturbed operation that reads one 8-bit register of a bank and hands back bit `k` of it: the read and the result are its only
outputs, and no register changes. -/
theorem start_read_bit {s : State} {kind : Kind} {b k : Nat} {r : Byte} (hq : s.quiet) (hb : b < 8) (hk : k < 8)
    (hr : readValue (.bank kind b) s = r.setWidth 16) :
    start [.read (.bank kind b)] (.bit k) s = .next { s with
      trace := s.trace ++ [.read s.cur (.bank kind b) (r.setWidth 16),
        .done s.cur (.value (if r.getLsbD k then 1 else 0))] } := by
  rw [start, runOp_read _ _ _ _ _ _ hq (regOffset_bank kind b hb), runOp_nil, hr, eval_bit_setWidth r hk]
  simp [finish, emit, afterRead, readDraws, hr]

/-! ### Line operations on a line in range -/

section
variable {s : State} {o : Nat} (hup : s.devstate = .up) (ho : o < s.params.noutN + s.params.ninN)
include hup ho

/-- A line operation on a line in range is not refused while the device is up (R32, R155). -/
theorem unlessRefused_lineRefusal (k : Answer) : unlessRefused (lineRefusal o s) k = k := by
  rw [(lineRefusal_none o s).mpr ⟨hup, ho⟩, unlessRefused]

/-- DIRGET hands back the direction's number (R73, R150). -/
theorem exec_dirget :
    exec (.dirget o) s = start [] (.const (if o < s.params.noutN then 0 else 1)) s := by
  rw [exec, execDirget, unlessRefused_lineRefusal hup ho]
  simp only [isOutput_eq_true_iff]

/-- DIRSET succeeds when the direction asked for is output exactly if the line is an output line (R151). -/
theorem exec_dirset (d : Direction) :
    exec (.dirset o d) s =
      if d = .output ↔ o < s.params.noutN then start [] .ok s else raise .directionMismatch s := by
  refine (unlessRefused_lineRefusal hup ho _).trans ?_
  simp only [← isOutput_eq_true_iff]
  cases d <;> cases isOutput s.params o <;> rfl

/-- GET of an output line reads `WDATA` at the line's coordinates (R124, R153). -/
theorem exec_get_output (hout : o < s.params.noutN) :
    exec (.get o) s = start [.read (.bank .wdata (bankOf o))] (.bit (bitOf o)) s := by
  rw [exec, execGet, unlessRefused_lineRefusal hup ho, if_pos (isOutput_eq_true_iff.mpr hout), outCoord]

/-- GET of an input line reads `RDATA` at the coordinates of its input-relative offset (R123, R124, R153). -/
theorem exec_get_input (hin : s.params.noutN ≤ o) :
    exec (.get o) s = start [.read (.bank .rdata (bankOf (rel s.params o)))] (.bit (bitOf (rel s.params o))) s := by
  have hnot : ¬ isOutput s.params o = true := by
    rw [isOutput_eq_true_iff]
    exact Nat.not_lt.mpr hin
  rw [exec, execGet, unlessRefused_lineRefusal hup ho, if_neg hnot, inCoord]

end

end Sys2Proof.Machine

namespace Sys2Proof.Proofs

open Sys2Proof.Machine

/-- Settles O32: a line in range is not refused, and DIRGET has no step. -/
theorem dirgetTellsTheDirection : Obligations.DirgetTellsTheDirection :=
  ⟨fun _ ho => opw_eq_or 0x4 0 ho, fun s _ hup ho => (exec_dirget hup ho).trans (start_nil _ s)⟩

/-- Settles O33: DIRSET has no step when the direction fits, and raises its error before any step when it does not. -/
theorem dirsetAcceptsOnlyTheFixedDirection : Obligations.DirsetAcceptsOnlyTheFixedDirection := by
  refine ⟨fun o ho => ⟨opw_eq_or 0x5 0 ho, opw_eq_or 0x5 1 ho⟩, fun s o hup ho => ?_⟩
  rw [exec_dirset hup ho, exec_dirset hup ho]
  by_cases hout : o < s.params.noutN <;> simp [hout, start_nil, raise_eq, Return.eval]

/-- Settles O36: GET is one read at the line's coordinates; a count of at most 64 lines keeps the bank among the eight. -/
theorem getReadsTheLine : Obligations.GetReadsTheLine := by
  refine ⟨fun o ho => opw_eq_or 0x7 0 ho, fun s o hq hup hnout hnin => ⟨fun hout => ?output, fun hin ho => ?input⟩⟩
  case output =>
    have hbank : bankOf o < 8 := bankOf_lt_eight_iff.mpr (by omega)
    exact (exec_get_output hup (by omega) hout).trans (start_read_bit hq hbank (bitOf_lt_eight o) rfl)
  case input =>
    have hrel : rel s.params o < 64 := by rw [rel]; omega
    exact (exec_get_input hup ho hin).trans
      (start_read_bit hq (bankOf_lt_eight_iff.mpr hrel) (bitOf_lt_eight _) rfl)

end Sys2Proof.Proofs
end

section
/-! PROOF. The Interrupt Chip of 44_interrupt_chip.md: the trigger types and the rejection of every other type (R166). -/

namespace Sys2Proof.Machine

/-- A type outside the table of R166 differs from every row's type, so it has neither a code nor a strategy. -/
theorem triggerOf_eq_none {t : BitVec 4} (ht : t.toNat ∉ [1, 2, 3, 4, 8]) : triggerOf t = none := by
  have hne (k : BitVec 4) (hk : k.toNat ∈ [1, 2, 3, 4, 8]) : t ≠ k := fun h => ht (h ▸ hk)
  simp [triggerOf, hne]

section
variable {s : State} {l : Nat} (hup : s.devstate = .up) (hge : s.params.noutN ≤ l) (hlt : l < s.params.noutN + s.params.ninN)
include hup hge hlt

/-- An interrupt-chip operation on an input line is not refused while the device is up (R32, R165). -/
theorem unlessRefused_inputRefusal (k : Answer) : unlessRefused (inputRefusal l s) k = k := by
  rw [(inputRefusal_none l s).mpr ⟨hup, hge, hlt⟩, unlessRefused]

/-- SETTYPE looks the type up before it takes the lock, so an unsupported type is an error whatever the lock is (R166, R167). -/
theorem exec_settype_unsupported {t : BitVec 4} (ht : triggerOf t = none) :
    exec (.settype l t) s = raise .unsupportedTriggerType s := by
  rw [exec, execSettype, unlessRefused_inputRefusal hup hge hlt, ht]

end

end Sys2Proof.Machine

namespace Sys2Proof.Proofs

open Sys2Proof.Machine

/-- Settles O42: the five rows of the table by evaluation; a type outside it has no code, so SETTYPE raises its error before any step. -/
theorem triggerTypesMapToCodes : Obligations.TriggerTypesMapToCodes := by
  refine ⟨rfl, rfl, rfl, rfl, rfl, fun t ht => ?unsupported⟩
  have hnone : triggerOf t = none := triggerOf_eq_none ht
  exact ⟨hnone, fun s _ hup hge hlt => (exec_settype_unsupported hup hge hlt hnone).trans (raise_eq _ s)⟩

end Sys2Proof.Proofs
end

section
/-! PROOF. The Dispatcher of 45_dispatcher.md: its line number (R187), the inverse of the input coordinates (R124). -/

namespace Sys2Proof.Machine

/-! ### Bank and bit of a position given by bank and bit -/

theorem bankOf_eight_mul_add {k : Nat} (b : Nat) (hk : k < 8) : bankOf (8 * b + k) = b := by
  rw [bankOf, Nat.mul_add_div (by decide), Nat.div_eq_of_lt hk, Nat.add_zero]

theorem bitOf_eight_mul_add {k : Nat} (b : Nat) (hk : k < 8) : bitOf (8 * b + k) = k := by
  rw [bitOf, Nat.mul_add_mod, Nat.mod_eq_of_lt hk]

/-! ### The line number of a bank and a bit -/

section
variable (q : Params) (b k : Nat)

/-- The line number is the first input line's number plus the position (R187). -/
theorem vline_eq_noutN_add : vline q b k = q.noutN + (8 * b + k) := by
  rw [vline]
  omega

/-- The input-relative offset of a line number is its position (R123, R187). -/
theorem rel_vline : rel q (vline q b k) = 8 * b + k := by
  rw [rel, vline_eq_noutN_add, Nat.add_sub_cancel_left]

/-- A line number belongs to an input line exactly when its position is below `NIN` (R121, R187). -/
theorem isInput_vline_iff : isInput q (vline q b k) = true ↔ 8 * b + k < q.ninN := by
  rw [isInput_eq_true_iff, vline_eq_noutN_add, Nat.add_lt_add_iff_left]
  exact and_iff_right (Nat.le_add_right _ _)

/-- The input coordinates of a line number are the bank and the bit it was made of (R124, R187). -/
theorem inCoord_vline (hk : k < 8) : inCoord q (vline q b k) = (b, k) := by
  rw [inCoord, rel_vline, bankOf_eight_mul_add b hk, bitOf_eight_mul_add b hk]

end

end Sys2Proof.Machine

namespace Sys2Proof.Proofs

open Sys2Proof.Machine

/-- Settles O30: the line number is `NOUT` plus a position below 64, and a position is taken apart into its bank and bit again. -/
theorem lineNumberInvertsInputCoordinates : Obligations.LineNumberInvertsInputCoordinates := by
  intro q b k hb hk
  have hline : vline q b k = q.noutN + (8 * b + k) := vline_eq_noutN_add q b k
  refine ⟨rfl, ?lower, ?upper, fun hin => ⟨(isInput_vline_iff q b k).mpr hin, rel_vline q b k, inCoord_vline q b k hk⟩⟩
  case lower => omega
  case upper => omega

end Sys2Proof.Proofs
end

section
/-! PROOF. The encodings of 30_encoding.md, continued: decoding inverts encoding (R86, R87), descriptors match their row of the map (R87), and
an operation word that matches no row is refused (R90). -/

namespace Sys2Proof

/-! ### Decoding an encoded operation word -/

/-- An assembled operation word is decoded by the fields it was assembled of (R70). -/
theorem decode_opw (opc arg : BitVec 4) (line : Nat) :
    decode (opw opc arg line) = decodeFields ⟨opc, arg, 0, BitVec.ofNat 7 line⟩ :=
  congrArg decodeFields (splitOpw_joinOpw ⟨opc, arg, 0, BitVec.ofNat 7 line⟩)

/-- A line offset that fits `LINE` is read back from it (R70). -/
theorem toNat_line {o : Nat} (h : lineFits o = true) : (BitVec.ofNat 7 o).toNat = o :=
  (BitVec.toNat_ofNat o 7).trans (Nat.mod_eq_of_lt (of_decide_eq_true h))

@[simp] theorem argBit_high (b : Bool) : (argBit b).extractLsb' 1 3 = 0 := by
  cases b <;> rfl

@[simp] theorem argBit_low (b : Bool) : (argBit b).getLsbD 0 = b := by
  cases b <;> rfl

@[simp] theorem directionOfBit_bit (d : Direction) : directionOfBit d.bit = d := by
  cases d <;> rfl

theorem takesLine_encoded (opc : BitVec 4) {o : Nat} (i : Nat → Instr) (ho : lineFits o = true) :
    takesLine ⟨opc, 0, 0, BitVec.ofNat 7 o⟩ i = .ok (i o) := by
  simp only [takesLine, toNat_line ho, if_true]

theorem takesBitAndLine_encoded (opc : BitVec 4) {o : Nat} (b : Bool) (i : Nat → Bool → Instr) (ho : lineFits o = true) :
    takesBitAndLine ⟨opc, argBit b, 0, BitVec.ofNat 7 o⟩ i = .ok (i o b) := by
  simp only [takesBitAndLine, toNat_line ho, argBit_high, argBit_low, if_true]

/-! ### Decoding an encoded descriptor -/

/-- An assembled descriptor whose offset fits `OFF` is decoded by the fields it was assembled of (R71). -/
theorem decode_busw (w sz : BitVec 1) {off : Nat} (data : BitVec 16) (h : off < 64) :
    decode (busw w sz off data) =
      if sz.getLsbD 0 then decodeHalf (w.getLsbD 0) off data else decodeByte (w.getLsbD 0) off data := by
  have hw : (w ++ sz ++ BitVec.ofNat 6 off ++ data : BitVec 24).getLsbD 23 = w.getLsbD 0 := by
    simp only [BitVec.getLsbD_append]
    rfl
  have hsz : (w ++ sz ++ BitVec.ofNat 6 off ++ data : BitVec 24).getLsbD 22 = sz.getLsbD 0 := by
    simp only [BitVec.getLsbD_append]
    rfl
  have hoff : ((w ++ sz ++ BitVec.ofNat 6 off ++ data : BitVec 24).extractLsb' 16 6).toNat = off := by
    simp only [BitVec.extractLsb'_append_eq_ite]
    simp [Nat.mod_eq_of_lt h]
  have hdata : (w ++ sz ++ BitVec.ofNat 6 off ++ data : BitVec 24).extractLsb' 0 16 = data := by
    simp only [BitVec.extractLsb'_append_eq_ite]
    simp
  change decodeBusw _ = _
  rw [decodeBusw_eq, hw, hsz, hoff, hdata]

/-- A byte placed in `DATA` is taken from it (R71). -/
theorem takesByte_dataByte (v : Byte) (i : Byte → Instr) : takesByte (dataByte v) i = .ok (i v) := by
  have hhigh : (dataByte v).extractLsb' 8 8 = 0 := by
    simp only [dataByte, BitVec.extractLsb'_append_eq_ite]
    simp
  have hlow : (dataByte v).extractLsb' 0 8 = v := by
    simp only [dataByte, BitVec.extractLsb'_append_eq_ite]
    simp
  rw [takesByte, if_pos hhigh, hlow]

/-- An encoded 8-bit read decodes to the read of its offset (R87). -/
theorem decode_byteRead {off : Nat} {rd : Instr} {wr : Byte → Instr} (hoff : off < 64)
    (hat : ∀ write data, decodeByte write off data = if write then takesByte data wr else .ok rd) :
    decode (busw 0 0 off 0) = .ok rd := by
  rw [decode_busw _ _ _ hoff, hat]
  rfl

/-- An encoded 8-bit write decodes to the write of its offset (R87). -/
theorem decode_byteWrite {off : Nat} {rd : Instr} {wr : Byte → Instr} (v : Byte) (hoff : off < 64)
    (hat : ∀ write data, decodeByte write off data = if write then takesByte data wr else .ok rd) :
    decode (busw 1 0 off (dataByte v)) = .ok (wr v) := by
  rw [decode_busw _ _ _ hoff, hat]
  exact takesByte_dataByte v wr

section
variable {b : Nat} (write : Bool) (data : BitVec 16)

theorem decodeByte_wdata (hb : b < 8) :
    decodeByte write (0x00 + b) data = if write then takesByte data (.wr8Wdata b) else .ok (.rd8Wdata b) := by
  rw [decodeByte, if_pos (by omega), Nat.zero_add]

theorem decodeByte_rdata (hb : b < 8) :
    decodeByte write (0x08 + b) data = if write then takesByte data (.wr8Rdata b) else .ok (.rd8Rdata b) := by
  rw [decodeByte, if_neg (by omega), if_pos (by omega), Nat.add_sub_cancel_left]

theorem decodeByte_evsts (hb : b < 8) :
    decodeByte write (0x20 + b) data = if write then takesByte data (.wr8Evsts b) else .ok (.rd8Evsts b) := by
  rw [decodeByte, if_neg (by omega), if_neg (by omega), if_neg (by omega), if_pos (by omega), Nat.add_sub_cancel_left]

theorem decodeHalf_evcfg (hb : b < 8) :
    decodeHalf write (0x10 + 2 * b) data = if write then .ok (.wr16Evcfg b data) else .ok (.rd16Evcfg b) := by
  rw [decodeHalf, if_pos (by omega), Nat.add_sub_cancel_left, Nat.mul_div_cancel_left b (by decide)]

end

/-! ### Descriptors and the rows of the map -/

/-- Decoding succeeded, with a bus transaction of row `r`. -/
def GivesBusRow (d : Except DecodeError Instr) (r : BitVec 24 × BitVec 24) : Prop :=
  ∃ i, d = .ok i ∧ busRow i = some r

theorem not_givesBusRow_error (e : DecodeError) (r : BitVec 24 × BitVec 24) : ¬ GivesBusRow (.error e) r := by
  simp [GivesBusRow]

theorem givesBusRow_ok_iff {i : Instr} {r : BitVec 24 × BitVec 24} : GivesBusRow (.ok i) r ↔ busRow i = some r := by
  simp [GivesBusRow]

/-- The data bits that row `r` wants zero are zero (R87). -/
def DataFits (data : BitVec 16) (r : BitVec 24 × BitVec 24) : Prop := data &&& r.2.extractLsb' 0 16 = 0

/-- The row a decoder of the data gives is that of data zero, where the data fits it. -/
def RowByFit (d : BitVec 16 → Except DecodeError Instr) : Prop :=
  ∀ data r, GivesBusRow (d data) r ↔ GivesBusRow (d 0) r ∧ DataFits data r

/-- The decoder's check of the upper data byte, as a mask (R91). -/
theorem high_eq_zero_iff (data : BitVec 16) : data.extractLsb' 8 8 = 0 ↔ data &&& 0xFF00#16 = 0 := by
  have hdata : data.extractLsb' 8 8 ++ data.extractLsb' 0 8 = data :=
    (BitVec.extractLsb'_append_extractLsb'_eq_extractLsb' (by rfl)).trans (BitVec.extractLsb'_eq_self)
  have hand : data &&& 0xFF00#16 = data.extractLsb' 8 8 ++ 0#8 := by
    conv_lhs => rw [← hdata]
    refine (Laws.EncodesItsRow.append_and _ (BitVec.allOnes 8) _ 0#8).trans ?_
    rw [BitVec.and_allOnes, BitVec.and_zero]
  rw [hand]
  generalize data.extractLsb' 8 8 = high
  decide +revert

theorem rowByFit_error (e : DecodeError) : RowByFit fun _ => .error e := by
  simp [RowByFit, not_givesBusRow_error]

/-- A transaction whose row leaves `DATA` free. -/
theorem rowByFit_ok {i : BitVec 16 → Instr} (m k : BitVec 24) (hrow : ∀ data, busRow (i data) = some (m, k))
    (hk : k.extractLsb' 0 16 = 0) : RowByFit fun data => .ok (i data) := by
  intro data r
  simp only [givesBusRow_ok_iff, hrow, Option.some.injEq, iff_self_and]
  rintro rfl
  exact (congrArg (data &&& ·) hk).trans BitVec.and_zero

/-- An 8-bit write, whose row wants the upper data byte zero. -/
theorem rowByFit_takesByte {i : Byte → Instr} (m k : BitVec 24) (hrow : ∀ v, busRow (i v) = some (m, k))
    (hk : k.extractLsb' 0 16 = 0xFF00#16) : RowByFit fun data => takesByte data i := by
  have htakes : ∀ data r, GivesBusRow (takesByte data i) r ↔ (m, k) = r ∧ data &&& 0xFF00#16 = 0 := by
    intro data r
    rw [takesByte, ← high_eq_zero_iff]
    split
    case isTrue h => simp [givesBusRow_ok_iff, hrow, h]
    case isFalse h => exact iff_of_false (not_givesBusRow_error _ _) fun hr => h hr.2
  intro data r
  have hzero : (0 : BitVec 16) &&& 0xFF00#16 = 0 := rfl
  rw [htakes, htakes, DataFits, and_iff_left hzero]
  refine and_congr_right fun h => ?_
  rw [← h, hk]

/-- A read or a write of the same register, the read's row with `DATA` free. -/
theorem rowByFit_readOrWrite (write : Bool) {wr : BitVec 16 → Except DecodeError Instr} {rd : Instr} (m k : BitVec 24)
    (hwr : RowByFit wr) (hrow : busRow rd = some (m, k)) (hk : k.extractLsb' 0 16 = 0) :
    RowByFit fun data => if write then wr data else .ok rd := by
  cases write
  · exact rowByFit_ok m k (fun _ => hrow) hk
  · exact hwr

theorem rowByFit_decodeHalf (write : Bool) (off : Nat) : RowByFit (decodeHalf write off) := by
  unfold decodeHalf
  split
  · exact rowByFit_readOrWrite write 0x500000 0xF10000 (rowByFit_ok 0xD00000 0xF10000 (fun _ => rfl) rfl) rfl rfl
  · exact rowByFit_error _

theorem rowByFit_decodeByte (write : Bool) (off : Nat) : RowByFit (decodeByte write off) := by
  unfold decodeByte
  split
  · exact rowByFit_readOrWrite write 0x000000 0xF80000 (rowByFit_takesByte 0x800000 0xF8FF00 (fun _ => rfl) rfl) rfl rfl
  split
  · exact rowByFit_readOrWrite write 0x080000 0xF80000 (rowByFit_takesByte 0x880000 0xF8FF00 (fun _ => rfl) rfl) rfl rfl
  split
  · exact rowByFit_error _
  split
  · exact rowByFit_readOrWrite write 0x200000 0xF80000 (rowByFit_takesByte 0xA00000 0xF8FF00 (fun _ => rfl) rfl) rfl rfl
  split
  · exact rowByFit_readOrWrite write 0x280000 0xFF0000 (rowByFit_takesByte 0xA80000 0xFFFF00 (fun _ => rfl) rfl) rfl rfl
  split
  · exact rowByFit_readOrWrite write 0x2A0000 0xFF0000 (rowByFit_takesByte 0xAA0000 0xFFFF00 (fun _ => rfl) rfl) rfl rfl
  split
  · exact rowByFit_readOrWrite write 0x2B0000 0xFF0000 (rowByFit_takesByte 0xAB0000 0xFFFF00 (fun _ => rfl) rfl) rfl rfl
  · exact rowByFit_error _

/-- The row of a descriptor is that of its request byte, where its data fits that row (R71, R87). -/
theorem rowByFit_decodeRequest (req : BitVec 8) : RowByFit (decodeRequest req) := by
  unfold decodeRequest
  dsimp only
  split
  · exact rowByFit_decodeHalf _ _
  · exact rowByFit_decodeByte _ _

/-- The row that a request byte asks for, if it asks for one (R87). -/
def requestRow (req : BitVec 8) : Option (BitVec 24 × BitVec 24) :=
  match decodeRequest req 0 with
  | .ok i => busRow i
  | .error _ => none

theorem requestRow_eq_some_iff {req : BitVec 8} {r : BitVec 24 × BitVec 24} :
    requestRow req = some r ↔ GivesBusRow (decodeRequest req 0) r := by
  rw [requestRow]
  cases decodeRequest req 0
  · simp [not_givesBusRow_error]
  · exact givesBusRow_ok_iff.symm

/-- For every row of the map, the request bytes that ask for it are those that match it (R87): 256 request bytes, row by row. -/
theorem requestRow_iff_of_busRow {j : Instr} {m k : BitVec 24} (hj : busRow j = some (m, k)) :
    m.extractLsb' 0 16 = 0 ∧
      ∀ req : BitVec 8, requestRow req = some (m, k) ↔ req &&& k.extractLsb' 16 8 = m.extractLsb' 16 8 := by
  cases j <;> cases hj <;> exact ⟨rfl, by decide⟩

/-- A descriptor matches a row when its request byte does and its data fits the row. -/
theorem busw_and_eq_iff (w m k : BitVec 24) (hm : m.extractLsb' 0 16 = 0) :
    w &&& k = m ↔ w.extractLsb' 16 8 &&& k.extractLsb' 16 8 = m.extractLsb' 16 8 ∧ DataFits (w.extractLsb' 0 16) (m, k) := by
  have hsplit : ∀ x : BitVec 24, x.extractLsb' 16 8 ++ x.extractLsb' 0 16 = x := fun x =>
    (BitVec.extractLsb'_append_extractLsb'_eq_extractLsb' (by rfl)).trans BitVec.extractLsb'_eq_self
  rw [DataFits, ← hm, ← BitVec.extractLsb'_and, ← BitVec.extractLsb'_and]
  constructor
  · rintro h
    rw [h]
    exact ⟨rfl, rfl⟩
  · rintro ⟨hreq, hdata⟩
    rw [← hsplit (w &&& k), hreq, hdata, hsplit]

/-- An operation word decodes to operations only, which have a row (R86). -/
theorem opRow_of_decode {w : BitVec 16} {i : Instr} (h : decode (.opw w) = .ok i) : ∃ r, opRow i = some r := by
  simp only [decode, decodeOpw, decodeFields, takesNothing, takesLine, takesBitAndLine] at h
  repeat' split at h
  all_goals cases h
  all_goals exact ⟨_, rfl⟩

end Sys2Proof

namespace Sys2Proof.Proofs

/-- Settles O2: each operation's fields and each transaction's request byte and data pass the decoder's checks and are read back. -/
theorem decodeInvertsEncode : Obligations.DecodeInvertsEncode := by
  intro i hwf
  have bank {b : Nat} (h : bankFits b = true) : b < 8 := of_decide_eq_true h
  have fits {base b : Nat} (h : bankFits b = true) (hbase : base ≤ 0x20) : base + b < 64 := by
    have := bank h
    omega
  have fitsEvcfg {b : Nat} (h : bankFits b = true) : 0x10 + 2 * b < 64 := by
    have := bank h
    omega
  cases i with
  | init => rfl
  | clksel => rfl
  | portw => rfl
  | ifen en => exact (decode_opw 0x3 _ 0).trans (takesBitAndLine_encoded 0x3 (o := 0) en (fun _ en => .ifen en) rfl)
  | dirget o => exact (decode_opw 0x4 0 o).trans (takesLine_encoded 0x4 .dirget hwf)
  | dirset o d =>
    refine (decode_opw 0x5 _ o).trans ((takesBitAndLine_encoded 0x5 d.bit (fun o d => .dirset o (directionOfBit d)) hwf).trans ?_)
    rw [directionOfBit_bit]
  | dirout o v => exact (decode_opw 0x6 _ o).trans (takesBitAndLine_encoded 0x6 v .dirout hwf)
  | get o => exact (decode_opw 0x7 0 o).trans (takesLine_encoded 0x7 .get hwf)
  | set o v => exact (decode_opw 0x8 _ o).trans (takesBitAndLine_encoded 0x8 v .set hwf)
  | settype l t =>
    exact (decode_opw 0x9 t l).trans (congrArg (fun n => Except.ok (Instr.settype n t)) (toNat_line hwf))
  | mask l => exact (decode_opw 0xA 0 l).trans (takesLine_encoded 0xA .mask hwf)
  | unmask l => exact (decode_opw 0xB 0 l).trans (takesLine_encoded 0xB .unmask hwf)
  | ack l => exact (decode_opw 0xC 0 l).trans (takesLine_encoded 0xC .ack hwf)
  | dispatch => rfl
  | rd8Wdata b => exact decode_byteRead (fits hwf (by decide)) fun w d => decodeByte_wdata w d (bank hwf)
  | wr8Wdata b v => exact decode_byteWrite v (fits hwf (by decide)) fun w d => decodeByte_wdata w d (bank hwf)
  | rd8Rdata b => exact decode_byteRead (fits hwf (by decide)) fun w d => decodeByte_rdata w d (bank hwf)
  | wr8Rdata b v => exact decode_byteWrite v (fits hwf (by decide)) fun w d => decodeByte_rdata w d (bank hwf)
  | rd16Evcfg b => exact (decode_busw 0 1 0 (fitsEvcfg hwf)).trans (decodeHalf_evcfg false 0 (bank hwf))
  | wr16Evcfg b v => exact (decode_busw 1 1 v (fitsEvcfg hwf)).trans (decodeHalf_evcfg true v (bank hwf))
  | rd8Evsts b => exact decode_byteRead (fits hwf (by decide)) fun w d => decodeByte_evsts w d (bank hwf)
  | wr8Evsts b v => exact decode_byteWrite v (fits hwf (by decide)) fun w d => decodeByte_evsts w d (bank hwf)
  | rd8Ctrl => rfl
  | wr8Ctrl v => exact decode_byteWrite (off := 0x28) (rd := .rd8Ctrl) v (by decide) fun _ _ => rfl
  | rd8Clkcfg => rfl
  | wr8Clkcfg v => exact decode_byteWrite (off := 0x2A) (rd := .rd8Clkcfg) v (by decide) fun _ _ => rfl
  | rd8Portcfg => rfl
  | wr8Portcfg v => exact decode_byteWrite (off := 0x2B) (rd := .rd8Portcfg) v (by decide) fun _ _ => rfl

/-- Settles O1: the decoder evaluated on each word. -/
theorem writtenWordsDecode : Obligations.WrittenWordsDecode := by
  unfold Obligations.WrittenWordsDecode
  decide

/-- Settles O4: the request byte decides the row, by evaluation on each of them, and the decoder's check of the upper data byte is the rest
of the row's mask. -/
theorem descriptorsFollowTheMap : Obligations.DescriptorsFollowTheMap := by
  intro j m k w hj
  obtain ⟨hm, hreq⟩ := requestRow_iff_of_busRow hj
  change GivesBusRow (decodeRequest (w.extractLsb' 16 8) (w.extractLsb' 0 16)) (m, k) ↔ _
  rw [rowByFit_decodeRequest, ← requestRow_eq_some_iff, hreq, busw_and_eq_iff w m k hm]

/-- Settles O5: a word that decodes is an operation, and by the map it matches that operation's row. -/
theorem reservedWordsAreRefused : Obligations.ReservedWordsAreRefused := by
  intro s c w q a hissue hno
  cases hd : decode (.opw w) with
  | error e => exact hissue.step_refused hd
  | ok i =>
    obtain ⟨⟨m, k⟩, hrow⟩ := opRow_of_decode hd
    have hmatch : w &&& k = m := (operationWordsFollowTheMap i m k w hrow).mp ⟨i, hd, hrow⟩
    exact absurd hmatch (hno i m k hrow)

end Sys2Proof.Proofs
end

section
/-! PROOF. What every step keeps: the parameters, the records and the outputs (R7, R37, R233), no status bit set but by the sampler (R22, R24),
nothing changed by an invalid argument (R202). -/

namespace Sys2Proof.Machine

/-! ### What one step of an operation can do -/

/-- A property of every state a step of an operation can lead to, from the few changes such a step can make. -/
theorem Micro.run_all {P : State → Prop} (m : Micro) (c : Nat) (latch : Half) (s : State)
    (same : P s) (lock : ∀ l, P { s with lock := l })
    (trigType : ∀ i code, P { s with trigType := putEntry s.trigType i code })
    (strat : ∀ i st, P { s with strat := putEntry s.strat i st })
    (up : P { s with devstate := .up })
    (read : ∀ r, P (afterRead c r s)) (write : ∀ r v, P (afterWrite c r v s))
    (fault : P (raiseLogicFault c s)) (mismatch : P (Machine.finish c (.error .portWidthReadbackMismatch) s))
    (deliver : ∀ n, P (emit (.deliver c n) s)) : (m.run c latch s).All P := by
  cases m with
  | acquire =>
    rw [Micro.run]
    split
    · exact lock _
    · trivial
  | release => exact lock _
  | setType i code => exact trigType i code
  | setStrat i st => exact strat i st
  | read r =>
    rw [Micro.run]
    split
    · exact read r
    · exact fault
  | write r u =>
    rw [Micro.run]
    split
    · exact write r _
    · exact fault
  | check v =>
    rw [Micro.run]
    split
    · exact same
    · exact mismatch
  | bringUp => exact up
  | scan b k =>
    rw [Micro.run]
    split
    · exact deliver _
    · exact same

/-! ### Parameters and records -/

/-- `t` has the parameters of `s`, is up if `s` is, and has every fault record and every output of `s`. -/
structure KeepsRecords (s t : State) : Prop where
  params : t.params = s.params
  up : s.devstate = .up → t.devstate = .up
  fault : ∃ f, t.fault = s.fault ++ f
  trace : ∃ e, t.trace = s.trace ++ e

namespace KeepsRecords

/-- Where only other parts of the state change. -/
theorem of_eq {s t : State} (hp : t.params = s.params) (hd : t.devstate = s.devstate) (hf : t.fault = s.fault)
    (ht : t.trace = s.trace) : KeepsRecords s t :=
  ⟨hp, fun h => hd.trans h, ⟨[], by simp [hf]⟩, ⟨[], by simp [ht]⟩⟩

/-- Where one output is made. -/
theorem of_output {s t : State} (e : Event) (hp : t.params = s.params) (hd : t.devstate = s.devstate)
    (hf : t.fault = s.fault) (ht : t.trace = s.trace ++ [e]) : KeepsRecords s t :=
  ⟨hp, fun h => hd.trans h, ⟨[], by simp [hf]⟩, ⟨[e], ht⟩⟩

theorem trans {s t u : State} (h₁ : KeepsRecords s t) (h₂ : KeepsRecords t u) : KeepsRecords s u := by
  obtain ⟨hp₁, hd₁, ⟨f₁, hf₁⟩, ⟨e₁, ht₁⟩⟩ := h₁
  obtain ⟨hp₂, hd₂, ⟨f₂, hf₂⟩, ⟨e₂, ht₂⟩⟩ := h₂
  exact ⟨hp₂.trans hp₁, hd₂ ∘ hd₁, ⟨f₁ ++ f₂, by simp [hf₂, hf₁]⟩, ⟨e₁ ++ e₂, by simp [ht₂, ht₁]⟩⟩

theorem finish (c : Nat) (r : Result) (s : State) : KeepsRecords s (finish c r s) :=
  of_output (.done c r) rfl rfl rfl rfl

theorem raiseLogicFault (c : Nat) (s : State) : KeepsRecords s (raiseLogicFault c s) := by
  refine ⟨rfl, id, ?_, ⟨_, rfl⟩⟩
  rw [raiseLogicFault_fault]
  split
  · exact ⟨[], by simp⟩
  · exact ⟨_, rfl⟩

/-- Every move inside a run keeps parameters and records. -/
theorem moveInvariant : MoveInvariant KeepsRecords where
  refl _ := of_eq rfl rfl rfl rfl
  trans := trans
  turns _ _ := of_eq rfl rfl rfl rfl
  sample inp s := of_eq (by simp) (by simp) (by simp) (by simp)
  step m c latch s := m.run_all c latch s (of_eq rfl rfl rfl rfl) (fun _ => of_eq rfl rfl rfl rfl)
    (fun _ _ => of_eq rfl rfl rfl rfl) (fun _ _ => of_eq rfl rfl rfl rfl)
    ⟨rfl, fun _ => rfl, ⟨[], by simp⟩, ⟨[], by simp⟩⟩
    (fun _ => of_output _ rfl rfl rfl rfl) (fun r v => of_output (.write c r v) (by simp) (by simp) (by simp) (by simp))
    (raiseLogicFault c s) (finish c _ s) (fun _ => of_output _ rfl rfl rfl rfl)
  stack _ _ _ := of_eq rfl rfl rfl rfl
  finish c ret latch s := finish c _ s
  draw _ _ := of_eq rfl rfl rfl rfl

end KeepsRecords

/-! ### Errors of the class InvalidArgument -/

/-- An output that hands an error of the class InvalidArgument to a caller (R200). -/
def Event.isInvalidArgument : Event → Bool
  | .done _ (.error e) => decide (e.errClass = .invalidArgument)
  | _ => false

/-- The outputs of `t` are those of `s` and then none of class InvalidArgument. -/
def NoInvalidArgument (s t : State) : Prop :=
  ∃ es : List Event, t.trace = s.trace ++ es ∧ ∀ e ∈ es, e.isInvalidArgument = false

namespace NoInvalidArgument

theorem of_eq {s t : State} (h : t.trace = s.trace) : NoInvalidArgument s t := ⟨[], by simp [h], by simp⟩

theorem of_output {s t : State} (e : Event) (he : e.isInvalidArgument = false) (h : t.trace = s.trace ++ [e]) :
    NoInvalidArgument s t := ⟨[e], h, by simp [he]⟩

/-- What an operation hands back at its end is no error. -/
theorem finish (c : Nat) (ret : Return) (latch : Half) (s : State) : NoInvalidArgument s (finish c (ret.eval latch) s) :=
  of_output _ (by cases ret <;> rfl) rfl

/-- No move inside a run raises an error of that class: the errors of a step are a mismatch and the logic fault. -/
theorem moveInvariant : MoveInvariant NoInvalidArgument where
  refl _ := of_eq rfl
  trans := by
    rintro s t u ⟨es, hes, hno⟩ ⟨fs, hfs, hnof⟩
    refine ⟨es ++ fs, by simp [hfs, hes], fun e he => ?_⟩
    rcases List.mem_append.mp he with h | h
    · exact hno e h
    · exact hnof e h
  turns _ _ := of_eq rfl
  sample _ _ := of_eq (by simp)
  step m c latch s := m.run_all c latch s (of_eq rfl) (fun _ => of_eq rfl) (fun _ _ => of_eq rfl) (fun _ _ => of_eq rfl)
    (of_eq rfl) (fun _ => of_output _ rfl rfl) (fun _ _ => of_output _ rfl (afterWrite_trace _ _ _ _)) (of_output _ rfl rfl)
    (of_output _ rfl rfl) (fun _ => of_output _ rfl rfl)
  stack _ _ _ := of_eq rfl
  finish := finish
  draw _ _ := of_eq rfl

end NoInvalidArgument

/-! ### Runs in which only some turns fall -/

/-- A property of states that every move inside a run keeps when all turns are of a kind: as `MoveInvariant`, but the sampler's step need
be considered only where the kind admits it. -/
structure TurnInvariant (ok : Turn → Bool) (P : State → Prop) : Prop where
  okTurns : ∀ {s}, P s → s.turns.all ok = true
  turns : ∀ {s} ts, P s → ts.all ok = true → P { s with turns := ts }
  sample : ∀ {inp s}, ok (.sampler inp) = true → P s → P (sample inp s)
  step : ∀ (m : Micro) c latch {s}, P s → (m.run c latch s).All P
  stack : ∀ c st {s}, P s → P (setStack c st s)
  finish : ∀ c r {s}, P s → P (finish c r s)
  draw : ∀ used {s}, P s → P (useDraw used s)

namespace TurnInvariant

variable {ok : Turn → Bool} {P : State → Prop}

/-- A step of another context. -/
theorem contextStep (h : TurnInvariant ok P) (c : Nat) {s : State} (hs : P s) : P (contextStep c s) := by
  unfold Machine.contextStep
  split
  · exact hs
  · next f below _ =>
    split
    · exact hs
    · split
      · exact h.finish _ _ (h.stack _ _ hs)
      · next m rest _ =>
        have hm := h.step m c f.latch hs
        split
        · next l s' he =>
          rw [he] at hm
          split
          · exact h.finish _ _ (h.stack _ _ hm)
          · exact h.stack _ _ hm
        · next s' he =>
          rw [he] at hm
          exact h.stack _ _ hm
        · next s' he =>
          rw [he] at hm
          exact h.stack _ _ hm
        · exact hs

/-- What the other agents do before a step. -/
theorem interleave (h : TurnInvariant ok P) (c : Nat) (m : Micro) (ts : List Turn) (hts : ts.all ok = true) :
    ∀ {s}, P s → P (interleave c m ts s).1 := by
  induction ts with
  | nil => exact fun hs => h.turns [] hs rfl
  | cons t ts ih =>
    intro s hs
    obtain ⟨ht, hrest⟩ := Bool.and_eq_true_iff.mp hts
    cases t with
    | preempt => exact h.turns ts hs hrest
    | sampler inp => exact ih hrest (h.sample ht hs)
    | ctx d =>
      simp only [Machine.interleave]
      split
      · split
        · exact ih hrest hs
        · exact h.turns ts hs hrest
      · exact ih hrest (h.contextStep d hs)

/-- A whole run of an operation. -/
theorem runOp (h : TurnInvariant ok P) (c : Nat) (ret : Return) (prog : List Micro) :
    ∀ latch {s}, P s → P (runOp c ret prog latch s) := by
  induction prog with
  | nil => exact fun _ _ hs => h.finish _ _ hs
  | cons m rest ih =>
    intro latch s hs
    simp only [Machine.runOp]
    have hi : P (if m.shared then Machine.interleave c m s.turns s else (s, true)).1 := by
      split
      · exact h.interleave c m _ (h.okTurns hs) hs
      · exact hs
    generalize (if m.shared then Machine.interleave c m s.turns s else (s, true)) = p at hi ⊢
    obtain ⟨s₁, go⟩ := p
    cases go with
    | false => exact h.stack _ _ hi
    | true =>
      have hm := h.step m c latch hi
      simp only [if_true]
      split
      · next l s' he =>
        rw [he] at hm
        exact ih _ hm
      · next s' he =>
        rw [he] at hm
        exact hm
      · next s' he =>
        rw [he] at hm
        exact h.stack _ _ hm
      · exact h.stack _ _ hi

/-- An instruction. -/
theorem exec (h : TurnInvariant ok P) {i : Instr} {s t : State} (hs : P s) (he : exec i s = .next t) : P t := by
  rcases exec_cases he with ⟨e, used, rfl, -⟩ | ⟨prog, ret, used, rfl, -⟩
  · exact h.finish _ _ (h.draw used hs)
  · exact h.runOp _ ret prog 0 (h.draw used hs)

/-- An operation in progress that goes on. -/
theorem resume (h : TurnInvariant ok P) (c : Nat) {s : State} (hs : P s) : P (resume c s) := by
  unfold Machine.resume
  split
  · exact hs
  · split
    · exact hs
    · exact h.runOp _ _ _ _ (h.stack _ _ hs)

/-- The return of a line handler. -/
theorem handlerReturn (h : TurnInvariant ok P) (c : Nat) {s : State} (hs : P s) : P (handlerReturn c s) := by
  unfold Machine.handlerReturn
  split
  · exact hs
  · split
    · exact h.runOp _ _ _ _ (h.stack _ _ hs)
    · exact hs

/-- A step of a context, for a property that also the bookkeeping of requests keeps. -/
theorem act (h : TurnInvariant ok P) (hr : ∀ c rs {s}, P s → P (setRequests c rs s)) {c : Nat} {s t : State} (hs : P s)
    (ha : act c s = .next t) : P t := by
  unfold Machine.act at ha
  split at ha
  · cases ha
    exact h.resume c hs
  · unfold interruptEntry at ha
    split at ha
    · cases ha
      exact h.resume c hs
    · split at ha
      · exact h.exec (hr c _ hs) ha
      · cases ha
        exact hr c _ hs
  · cases ha
    split
    · exact h.resume c hs
    · exact h.handlerReturn c (hr c _ hs)
  · split at ha
    · cases ha
      exact h.resume c hs
    · unfold issue at ha
      split at ha
      · exact h.exec (hr c _ hs) ha
      · cases ha

end TurnInvariant

/-! ### The sampler's registers while it is idle -/

/-- A turn that is not the sampler's. -/
def Turn.notSampler : Turn → Bool
  | .sampler _ => false
  | _ => true

/-- Every status bit of `t` is one of `s`. -/
def StatusWithin (s t : State) : Prop := ∀ p, pending t p = true → pending s p = true

/-- No turn is the sampler's, `RDATA` is that of `s`, and every status bit is one of `s`. -/
structure SamplerIdleSince (s t : State) : Prop where
  idle : t.turns.all Turn.notSampler = true
  rdata : t.rdata = s.rdata
  status : StatusWithin s t

namespace SamplerIdleSince

variable {s t u : State}

/-- Where only other parts of the state change. -/
theorem of_eq (h : SamplerIdleSince s t) (ht : u.turns = t.turns) (hr : u.rdata = t.rdata) (hs : u.evsts = t.evsts) :
    SamplerIdleSince s u := by
  obtain ⟨hidle, hrdata, hstatus⟩ := h
  refine ⟨ht ▸ hidle, hr.trans hrdata, fun p hp => hstatus p ?_⟩
  rwa [pending, ← hs]

/-- A write sets no status bit: of the status registers it clears bits (R109). -/
theorem pending_of_afterWrite {c : Nat} {r : Reg} {v : Half} {p : Nat} (h : pending (afterWrite c r v t) p = true) :
    pending t p = true := by
  rcases r with ⟨_ | _ | _ | _, b⟩ | _ | _ | _
  case bank.evsts =>
    change (entry (putEntry t.evsts b (clearWritten (entry t.evsts b) (v.setWidth 8))) (bankOf p)).getLsbD (bitOf p) = true at h
    rw [entry_putEntry] at h
    split at h
    case isTrue hb =>
      rw [getLsbD_clearWritten _ _ _ (bitOf_lt_eight p), hb.1] at h
      exact (Bool.and_eq_true_iff.mp h).1
    case isFalse => exact h
  all_goals exact h

theorem afterWrite (h : SamplerIdleSince s t) (c : Nat) (r : Reg) (v : Half) :
    SamplerIdleSince s (afterWrite c r v t) where
  idle := by rw [afterWrite_turns]; exact h.idle
  rdata := (afterWrite_rdata c r v t).trans h.rdata
  status p hp := h.status p (pending_of_afterWrite hp)

/-- Every move of a context keeps `RDATA` and sets no status bit. -/
theorem turnInvariant (s : State) : TurnInvariant Turn.notSampler (SamplerIdleSince s) where
  okTurns h := h.idle
  turns _ h hts := ⟨hts, h.rdata, h.status⟩
  sample hno := nomatch hno
  step m c latch t h := m.run_all c latch t h (fun _ => h.of_eq rfl rfl rfl) (fun _ _ => h.of_eq rfl rfl rfl)
    (fun _ _ => h.of_eq rfl rfl rfl) (h.of_eq rfl rfl rfl) (fun _ => h.of_eq rfl rfl rfl) (fun r v => h.afterWrite c r v)
    (h.of_eq rfl rfl rfl) (h.of_eq rfl rfl rfl) (fun _ => h.of_eq rfl rfl rfl)
  stack _ _ _ h := h.of_eq rfl rfl rfl
  finish _ _ _ h := h.of_eq rfl rfl rfl
  draw _ _ h := h.of_eq rfl rfl rfl

/-- A step of the machine in which the sampler is idle. -/
theorem of_step (hidle : s.samplerIdle = true) (hs : step s = .next t) : SamplerIdleSince s t := by
  obtain ⟨hturn, hturns⟩ := Bool.and_eq_true_iff.mp hidle
  have hact : ∀ {c : Nat} {u : State}, SamplerIdleSince s u → act c u = .next t → SamplerIdleSince s t :=
    (turnInvariant s).act fun _ _ _ h => h.of_eq rfl rfl rfl
  have hstart : SamplerIdleSince s s := ⟨hturns, rfl, fun _ => id⟩
  unfold step serve at hs
  split at hs
  · cases hs
  · split at hs
    · exact hact hstart hs
    · refine hact ?_ hs
      exact hstart.of_eq rfl rfl rfl
    · next hag =>
      rw [hag] at hturn
      cases hturn

end SamplerIdleSince

/-! ### The state after reset -/

/-- After reset no context has an operation in progress. -/
theorem stack_resetWith (p : Params) (d : ResetDraw) (c : Nat) : (ctxAt (State.resetWith p d) c).stack = [] := by
  by_cases h : c < p.nctx <;> simp [ctxAt, State.resetWith, h]

end Sys2Proof.Machine

namespace Sys2Proof.Proofs

open Sys2Proof.Machine

/-- Settles O59: every move keeps the parameters and the records, hence every instruction and every step. -/
theorem stepKeepsParametersAndRecords : Obligations.StepKeepsParametersAndRecords := by
  have hfinish : ∀ c e s, KeepsRecords s (finish c (.error e) s) := fun c e s => .finish c _ s
  refine ⟨fun i s t h => ?_, fun s t h => ?_⟩
  · obtain ⟨hparams, hup, hfault, htrace⟩ := KeepsRecords.moveInvariant.exec hfinish h
    exact ⟨hparams, hup, hfault, htrace⟩
  · obtain ⟨hparams, hup, -, htrace⟩ := KeepsRecords.moveInvariant.serve hfinish
      (fun _ _ _ => .of_eq rfl rfl rfl rfl) (fun _ _ _ => .of_eq rfl rfl rfl rfl) h
    exact ⟨hparams, hup, htrace⟩

/-- Settles O60: no move but the sampler's writes `RDATA` or sets a status bit. -/
theorem onlyTheSamplerSetsStatus : Obligations.OnlyTheSamplerSetsStatus := by
  intro s t hidle hstep
  obtain ⟨-, hrdata, hstatus⟩ := SamplerIdleSince.of_step hidle hstep
  exact ⟨hrdata, hstatus⟩

/-- Settles O40: an instruction's own error is its only output, and no run hands back an error of this class. -/
theorem invalidArgumentChangesNothing : Obligations.InvalidArgumentChangesNothing := by
  intro i s t c e hexec hmem hclass
  rcases exec_cases hexec with ⟨e', used, rfl, hused⟩ | ⟨prog, ret, used, rfl, -⟩
  case inl =>
    have he : Event.done c (.error e) = .done s.cur (.error e') := by simpa using hmem
    cases he
    rw [hused hclass, useDraw_false]
    rfl
  case inr =>
    obtain ⟨es, hes, hno⟩ := NoInvalidArgument.moveInvariant.runOp s.cur ret prog 0 (useDraw used s)
    rw [hes, useDraw_trace, List.drop_left] at hmem
    have h := hno _ hmem
    simp [Event.isInvalidArgument, hclass] at h

/-- Settles O57: after reset nothing is in progress, the device is down and the lock is free. -/
theorem resetIsSound : Obligations.ResetIsSound := by
  intro p d
  have hstack := stack_resetWith p d
  refine ⟨rfl, (fun h => nomatch h), fun c f hf => ?_, fun c => ?_⟩
  · rw [hstack] at hf
    cases hf
  · rw [lockHolders, hstack]
    rfl

/-- Settles O9: the value of every entry, by the replicated arrays. -/
theorem resetLeavesTheStatedValues : Obligations.ResetLeavesTheStatedValues := by
  intro p d s
  have hevcfg : ∀ b, b < 8 → entry s.evcfg b = 0x0000 := fun b hb => by
    simp [s, State.resetWith, entry, hb]
  have htype : ∀ i, i < 64 → entry s.trigType i = 0b00 := fun i hi => by
    simp [s, State.resetWith, entry, hi]
  have hstrat : ∀ i, i < 64 → stratEntry s.strat i = .unset := fun i hi => by
    simp [s, State.resetWith, stratEntry, hi]
  exact ⟨hevcfg, htype, hstrat, rfl, rfl, rfl, rfl, rfl, rfl, rfl, rfl, rfl⟩

end Sys2Proof.Proofs
end

section
/-! PROOF. Soundness of every step (20_memory.md R61, 10_state.md R32, R37): while an operation runs it is on no context's stack, so the
invariant is stated for the stacks with the running operation put back on its own. -/

namespace Sys2Proof.Machine

/-! ### The operations in progress, context by context -/

/-- The operations in progress of every context. -/
def stacksOf (s : State) (c : Nat) : List Frame := (ctxAt s c).stack

/-- One more operation in progress in context `c`. -/
def withFrame (c : Nat) (f : Frame) (σ : Nat → List Frame) (d : Nat) : List Frame :=
  if d = c then f :: σ d else σ d

/-- The stacks with those of context `c` replaced. -/
def withStack (c : Nat) (st : List Frame) (σ : Nat → List Frame) (d : Nat) : List Frame :=
  if d = c then st else σ d

theorem withFrame_withStack (c : Nat) (f : Frame) (st : List Frame) (σ : Nat → List Frame) :
    withFrame c f (withStack c st σ) = withStack c (f :: st) σ := by
  funext d
  simp only [withFrame, withStack]
  split <;> rfl

theorem withStack_eq_self {c : Nat} {st : List Frame} {σ : Nat → List Frame} (h : σ c = st) : withStack c st σ = σ := by
  funext d
  rw [withStack]
  split
  · next hd => rw [hd, h]
  · rfl

theorem withFrame_withStack_comm {c d : Nat} (h : d ≠ c) (f : Frame) (st : List Frame) (σ : Nat → List Frame) :
    withFrame c f (withStack d st σ) = withStack d st (withFrame c f σ) := by
  funext e
  simp only [withFrame, withStack]
  by_cases hc : e = c
  · simp [hc, Ne.symm h]
  · simp [hc]

theorem stacks_congr {s t : State} (h : t.ctxs = s.ctxs) : stacksOf t = stacksOf s := by
  funext d
  simp only [stacksOf, ctxAt, h]

theorem stacks_setStack {c : Nat} {s : State} (h : c < s.ctxs.length) (st : List Frame) :
    stacksOf (setStack c st s) = withStack c st (stacksOf s) := by
  funext d
  simp [stacksOf, withStack, stack_setStack, h]

theorem stacks_pushFrame {c : Nat} {s : State} (h : c < s.ctxs.length) (f : Frame) :
    stacksOf (pushFrame c f s) = withFrame c f (stacksOf s) := by
  have hself : withStack c (stacksOf s c) (stacksOf s) = stacksOf s := withStack_eq_self rfl
  rw [pushFrame, stacks_setStack h]
  conv_rhs => rw [← hself, withFrame_withStack]
  rfl

theorem stacks_setRequests (c : Nat) (rs : List Request) (s : State) : stacksOf (setRequests c rs s) = stacksOf s :=
  funext fun d => stack_setRequests c d rs s

/-- A context with something to do exists. -/
theorem exists_of_requests {c : Nat} {s : State} (h : (ctxAt s c).requests ≠ []) : c < s.ctxs.length := by
  by_contra hc
  simp [ctxAt, List.getElem?_eq_none (not_lt.mp hc)] at h

/-! ### Soundness for given stacks -/

/-- What soundness says of a list of steps still to do. -/
structure StepsSound (p : Params) (prog : List Micro) : Prop where
  inRange : prog.all Micro.inRange = true
  shape : lockShape false prog = true ∨ lockShape true prog = true
  checked : .bringUp ∈ prog → p.initChecked = true

theorem Frame.Sound.steps {p : Params} {f : Frame} (h : f.Sound p) : StepsSound p f.todo := ⟨h.inRange, h.shape, h.checked⟩

/-- An operation that waits for no handler is sound when its steps are. -/
theorem StepsSound.frame {p : Params} {prog : List Micro} (h : StepsSound p prog) (latch : Half) (ret : Return) :
    Frame.Sound p ⟨latch, prog, ret, false⟩ :=
  ⟨h.inRange, h.shape, h.checked, fun hf => nomatch hf⟩

/-- `State.Sound` with the stacks given apart from the state. -/
structure SoundWith (s : State) (σ : Nat → List Frame) : Prop where
  noFault : s.fault = []
  upChecked : s.devstate = .up → s.params.initChecked = true
  frames : ∀ d f, f ∈ σ d → f.Sound s.params
  lockHeld : ∀ d, (σ d).countP Frame.insideLock = if s.lock = .held d then 1 else 0

theorem sound_iff {s : State} : s.Sound ↔ SoundWith s (stacksOf s) :=
  ⟨fun ⟨h₁, h₂, h₃, h₄⟩ => ⟨h₁, h₂, h₃, h₄⟩, fun ⟨h₁, h₂, h₃, h₄⟩ => ⟨h₁, h₂, h₃, h₄⟩⟩

namespace SoundWith

variable {s t : State} {σ : Nat → List Frame} {c : Nat}

/-- Where only parts of the state change that soundness does not speak of. -/
theorem congr (h : SoundWith s σ) (hf : t.fault = s.fault) (hd : t.devstate = s.devstate) (hp : t.params = s.params)
    (hl : t.lock = s.lock) : SoundWith t σ := by
  obtain ⟨h₁, h₂, h₃, h₄⟩ := h
  exact ⟨hf.trans h₁, hp ▸ hd ▸ h₂, hp ▸ h₃, hl ▸ h₄⟩

theorem frame {f : Frame} (h : SoundWith s (withFrame c f σ)) : f.Sound s.params :=
  h.frames c f (by simp [withFrame])

theorem countP_withFrame (d : Nat) (f : Frame) : (withFrame c f σ d).countP Frame.insideLock =
    (σ d).countP Frame.insideLock + if d = c ∧ f.insideLock = true then 1 else 0 := by
  by_cases hd : d = c <;> simp [withFrame, hd, List.countP_cons]

/-- One operation in progress exchanged for another that is inside its locked body exactly when the first is. -/
theorem exchange {f g : Frame} (h : SoundWith s (withFrame c f σ)) (hg : g.Sound s.params) (hin : g.insideLock = f.insideLock) :
    SoundWith s (withFrame c g σ) := by
  obtain ⟨hfault, hup, hframes, hlock⟩ := h
  refine ⟨hfault, hup, fun d f' hf' => ?_, fun d => ?_⟩
  · by_cases hd : d = c
    · simp only [withFrame, if_pos hd, List.mem_cons] at hf'
      rcases hf' with rfl | hf'
      · exact hg
      · exact hframes d f' (by simp [withFrame, hd ▸ hf', hd])
    · exact hframes d f' (by simpa [withFrame, hd] using hf')
  · rw [countP_withFrame, hin, ← countP_withFrame, hlock]

/-- An operation outside a locked body that ends. -/
theorem drop {f : Frame} (h : SoundWith s (withFrame c f σ)) (hout : f.insideLock = false) : SoundWith s σ := by
  obtain ⟨hfault, hup, hframes, hlock⟩ := h
  refine ⟨hfault, hup, fun d f' hf' => hframes d f' ?_, fun d => ?_⟩
  · rw [withFrame]
    split
    · exact List.mem_cons_of_mem f hf'
    · exact hf'
  · rw [← hlock, countP_withFrame, hout]
    simp

/-- An operation outside a locked body that begins. -/
theorem add {f : Frame} (h : SoundWith s σ) (hf : f.Sound s.params) (hout : f.insideLock = false) :
    SoundWith s (withFrame c f σ) := by
  obtain ⟨hfault, hup, hframes, hlock⟩ := h
  refine ⟨hfault, hup, fun d f' hf' => ?_, fun d => ?_⟩
  · rw [withFrame] at hf'
    split at hf'
    · rcases List.mem_cons.mp hf' with rfl | hf'
      · exact hf
      · exact hframes d f' hf'
    · exact hframes d f' hf'
  · rw [← hlock, countP_withFrame, hout]
    simp

end SoundWith

/-! ### One step of an operation -/

/-- What is left of a list of steps is sound, with the lock taken or released by the step made. -/
theorem StepsSound.tail {p : Params} {m : Micro} {rest : List Micro} (h : StepsSound p (m :: rest)) : StepsSound p rest := by
  obtain ⟨hrange, hshape, hchecked⟩ := h
  refine ⟨(Bool.and_eq_true_iff.mp hrange).2, ?_, fun hb => hchecked (List.mem_cons_of_mem m hb)⟩
  cases m <;> simp [lockShape] at hshape <;> tauto

/-- Soundness after one step of an operation of context `c`, by how the operation goes on. -/
def Flow.SoundIn (c : Nat) (m : Micro) (rest : List Micro) (ret : Return) (latch : Half) (σ : Nat → List Frame) : Flow → Prop
  | .more latch' s => SoundWith s (withFrame c ⟨latch', rest, ret, false⟩ σ)
  | .ended s => SoundWith s σ
  | .calls s => SoundWith s (withFrame c ⟨latch, m :: rest, ret, true⟩ σ)
  | .waits => True

section
variable {c : Nat} {m : Micro} {rest : List Micro} {ret : Return} {latch : Half} {σ : Nat → List Frame} {s : State}

/-- A step that neither takes nor releases the lock, and after which soundness need be checked for one operation only. -/
theorem SoundWith.step_same (latch' : Half) (h : SoundWith s (withFrame c ⟨latch, m :: rest, ret, false⟩ σ))
    (hshape : lockShape true rest = lockShape true (m :: rest)) :
    SoundWith s (withFrame c ⟨latch', rest, ret, false⟩ σ) :=
  h.exchange (h.frame.steps.tail.frame _ _) hshape

/-- A step made outside a locked body that stays outside. -/
theorem SoundWith.step_outside (latch' : Half) (h : SoundWith s (withFrame c ⟨latch, m :: rest, ret, false⟩ σ))
    (hin : lockShape true (m :: rest) = false) (hshape : lockShape false (m :: rest) = lockShape false rest) :
    lockShape false rest = true ∧ SoundWith s (withFrame c ⟨latch', rest, ret, false⟩ σ) := by
  have hout : lockShape false (m :: rest) = true := h.frame.shape.resolve_right (by simp [hin])
  rw [hshape] at hout
  exact ⟨hout, h.step_same latch' ((lockShape_not_both rest hout).trans hin.symm)⟩

/-- Taking the free lock (R61). -/
theorem SoundWith.acquire (h : SoundWith s (withFrame c ⟨latch, .acquire :: rest, ret, false⟩ σ)) (hfree : s.lock = .free) :
    SoundWith { s with lock := .held c } (withFrame c ⟨latch, rest, ret, false⟩ σ) := by
  have hrest : lockShape true rest = true := by simpa [lockShape] using h.frame.shape
  have hdrop : SoundWith s σ := h.drop rfl
  have hframe : Frame.Sound s.params ⟨latch, rest, ret, false⟩ := h.frame.steps.tail.frame _ _
  obtain ⟨hfault, hup, hframes, hlock⟩ := hdrop
  refine ⟨hfault, hup, fun d f hf => ?_, fun d => ?_⟩
  · rw [withFrame] at hf
    split at hf
    · rcases List.mem_cons.mp hf with rfl | hf
      · exact hframe
      · exact hframes d f hf
    · exact hframes d f hf
  · rw [SoundWith.countP_withFrame, hlock, hfree]
    simp [Frame.insideLock, hrest, eq_comm]

/-- Releasing the lock (R61). -/
theorem SoundWith.release (h : SoundWith s (withFrame c ⟨latch, .release :: rest, ret, false⟩ σ)) :
    SoundWith { s with lock := .free } (withFrame c ⟨latch, rest, ret, false⟩ σ) := by
  have hrest : lockShape false rest = true := by simpa [lockShape] using h.frame.shape
  have hin : Frame.insideLock ⟨latch, .release :: rest, ret, false⟩ = true := by simpa [Frame.insideLock, lockShape] using hrest
  have hframe : Frame.Sound s.params ⟨latch, rest, ret, false⟩ := h.frame.steps.tail.frame _ _
  obtain ⟨hfault, hup, hframes, hlock⟩ := h
  have hheld : ∀ d, (σ d).countP Frame.insideLock = 0 := by
    intro d
    have hc : (σ c).countP Frame.insideLock + 1 = if s.lock = .held c then 1 else 0 := by
      rw [← hlock, SoundWith.countP_withFrame, hin]
      simp
    have hheld : s.lock = .held c := by
      by_contra hne
      simp [hne] at hc
    by_cases hdc : d = c
    · subst hdc
      simpa [hheld] using hc
    · simpa [SoundWith.countP_withFrame, hheld, hdc, Ne.symm hdc] using hlock d
  have hσ : SoundWith { s with lock := .free } σ :=
    ⟨hfault, hup, fun d f hf => hframes d f (by rw [withFrame]; split <;> simp [hf]), fun d => by simp [hheld d]⟩
  exact hσ.add hframe (lockShape_not_both rest hrest)

end

/-- One step of a sound operation in a sound state. -/
theorem Micro.run_soundIn {c : Nat} (m : Micro) {rest : List Micro} {ret : Return} {latch : Half} {σ : Nat → List Frame}
    {s : State} (h : SoundWith s (withFrame c ⟨latch, m :: rest, ret, false⟩ σ)) :
    (m.run c latch s).SoundIn c m rest ret latch σ := by
  have hrange : m.inRange = true := (Bool.and_eq_true_iff.mp h.frame.inRange).1
  cases m with
  | acquire =>
    rw [Micro.run]
    split
    · next hfree => exact h.acquire hfree
    · trivial
  | release => exact h.release
  | setType i code => exact (h.step_same latch rfl).congr rfl rfl rfl rfl
  | setStrat i st => exact (h.step_same latch rfl).congr rfl rfl rfl rfl
  | read r =>
    rw [Micro.run, if_pos (show (regOffset r).isSome = true from hrange)]
    exact (h.step_same _ rfl).congr rfl rfl rfl rfl
  | write r u =>
    rw [Micro.run, if_pos (show (regOffset r).isSome = true from hrange)]
    exact (h.step_same latch rfl).congr (by simp) (by simp) (by simp) (by simp)
  | check v =>
    rw [Micro.run]
    split
    · exact (h.step_outside latch rfl rfl).2
    · exact (h.drop rfl).congr rfl rfl rfl rfl
  | bringUp =>
    obtain ⟨hfault, -, hframes, hlock⟩ := h.step_same latch rfl
    exact ⟨hfault, fun _ => h.frame.checked (by simp), hframes, hlock⟩
  | scan b k =>
    rw [Micro.run]
    obtain ⟨hrest, hnext⟩ := h.step_outside latch rfl rfl
    split
    · have hcall : Frame.Sound s.params ⟨latch, .scan b k :: rest, ret, true⟩ :=
        ⟨h.frame.inRange, h.frame.shape, h.frame.checked, fun _ => ⟨b, k, rest, rfl, hrest⟩⟩
      exact (h.exchange hcall rfl).congr rfl rfl rfl rfl
    · exact hnext

/-- A step of an operation leaves every stack alone. -/
theorem Micro.run_ctxs (m : Micro) (c : Nat) (latch : Half) (s : State) : (m.run c latch s).All fun t => t.ctxs = s.ctxs :=
  m.run_all c latch s rfl (fun _ => rfl) (fun _ _ => rfl) (fun _ _ => rfl) rfl (fun _ => rfl)
    (fun r v => afterWrite_ctxs c r v s) rfl rfl fun _ => rfl

/-! ### A whole run -/

/-- Context `c` runs an operation that is not on its stack: with `f` for what is left of it, the state is sound. -/
structure RunningSound (c : Nat) (f : Frame) (s : State) : Prop where
  lt : c < s.ctxs.length
  sound : SoundWith s (withFrame c f (stacksOf s))

namespace RunningSound

variable {c : Nat} {f : Frame} {s t : State}

theorem congr (h : RunningSound c f s) (hc : t.ctxs = s.ctxs) (hf : t.fault = s.fault) (hd : t.devstate = s.devstate)
    (hp : t.params = s.params) (hl : t.lock = s.lock) : RunningSound c f t := by
  refine ⟨hc ▸ h.lt, ?_⟩
  rw [stacks_congr hc]
  exact h.sound.congr hf hd hp hl

/-- The operation set aside: it is on its context's stack again. -/
theorem setAside (h : RunningSound c f s) : (pushFrame c f s).Sound := by
  rw [sound_iff, stacks_pushFrame h.lt]
  exact h.sound.congr rfl rfl rfl rfl

/-- A step of another context. -/
theorem contextStep {d : Nat} (h : RunningSound c f s) (hd : d ≠ c) : RunningSound c f (contextStep d s) := by
  unfold Machine.contextStep
  split
  · exact h
  next g below hst =>
    split
    · exact h
    next hno =>
      have hlt : d < s.ctxs.length := exists_of_stack (by simp [hst])
      obtain ⟨hc, hs⟩ := h
      have hstacks : withFrame c f (stacksOf s) = withFrame d g (withFrame c f (withStack d below (stacksOf s))) := by
        rw [withFrame_withStack_comm hd, withFrame_withStack, ← withFrame_withStack_comm hd, withStack_eq_self hst]
      rw [hstacks] at hs
      have after : ∀ {t : State} (st : List Frame), t.ctxs = s.ctxs →
          SoundWith t (withFrame c f (withStack d st (stacksOf s))) → RunningSound c f (setStack d st t) := by
        intro t st ht hs'
        refine ⟨by simpa [ht] using hc, ?_⟩
        rw [stacks_setStack (by rwa [ht]), stacks_congr ht]
        exact hs'.congr rfl rfl rfl rfl
      have afterFrame : ∀ {t : State} (g' : Frame), t.ctxs = s.ctxs →
          SoundWith t (withFrame d g' (withFrame c f (withStack d below (stacksOf s)))) →
          RunningSound c f (setStack d (g' :: below) t) := by
        intro t g' ht hs'
        rw [withFrame_withStack_comm hd, withFrame_withStack, ← withFrame_withStack_comm hd] at hs'
        exact after _ ht hs'
      obtain ⟨glatch, todo, ret, inHandler⟩ := g
      obtain rfl : inHandler = false := by simpa using hno
      cases todo with
      | nil => exact (after below rfl (hs.drop rfl)).congr rfl rfl rfl rfl rfl
      | cons m rest =>
        have hrun := m.run_soundIn hs
        have hctxs := m.run_ctxs d glatch s
        dsimp only
        split
        · next l t he =>
          rw [he] at hrun hctxs
          split
          · next hempty =>
            obtain rfl : rest = [] := by simpa using hempty
            exact (after below hctxs (SoundWith.drop hrun rfl)).congr rfl rfl rfl rfl rfl
          · exact afterFrame _ hctxs hrun
        · next t he =>
          rw [he] at hrun hctxs
          exact after below hctxs hrun
        · next t he =>
          rw [he] at hrun hctxs
          exact afterFrame _ hctxs hrun
        · exact ⟨hc, hstacks ▸ hs⟩

/-- What the other agents do before a step. -/
theorem interleave (m : Micro) (ts : List Turn) : ∀ {s}, RunningSound c f s → RunningSound c f (interleave c m ts s).1 := by
  induction ts with
  | nil => exact fun h => h.congr rfl rfl rfl rfl rfl
  | cons t ts ih =>
    intro s h
    cases t with
    | preempt => exact h.congr rfl rfl rfl rfl rfl
    | sampler inp => exact ih (h.congr (by simp) (by simp) (by simp) (by simp) (by simp))
    | ctx d =>
      simp only [Machine.interleave]
      split
      · split
        · exact ih h
        · exact h.congr rfl rfl rfl rfl rfl
      · next hd => exact ih (h.contextStep hd)

end RunningSound

/-- A run of a sound operation from a sound state leads to a sound state. -/
theorem runOp_sound {c : Nat} {ret : Return} (prog : List Micro) :
    ∀ {latch : Half} {s : State}, RunningSound c ⟨latch, prog, ret, false⟩ s → (runOp c ret prog latch s).Sound := by
  induction prog with
  | nil =>
    intro latch s h
    exact sound_iff.mpr ((h.sound.drop rfl).congr rfl rfl rfl rfl)
  | cons m rest ih =>
    intro latch s h
    simp only [runOp]
    have hi : RunningSound c ⟨latch, m :: rest, ret, false⟩ (if m.shared then interleave c m s.turns s else (s, true)).1 := by
      split
      · exact h.interleave m _
      · exact h
    generalize (if m.shared then interleave c m s.turns s else (s, true)) = p at hi ⊢
    obtain ⟨s₁, go⟩ := p
    cases go with
    | false => exact hi.setAside
    | true =>
      have hrun := m.run_soundIn hi.sound
      have hctxs := m.run_ctxs c latch s₁
      simp only [if_true]
      split
      · next l t he =>
        rw [he] at hrun hctxs
        exact ih ⟨hctxs ▸ hi.lt, (stacks_congr hctxs) ▸ hrun⟩
      · next t he =>
        rw [he] at hrun hctxs
        exact sound_iff.mpr ((stacks_congr hctxs) ▸ hrun)
      · next t he =>
        rw [he] at hrun hctxs
        exact RunningSound.setAside ⟨hctxs ▸ hi.lt, (stacks_congr hctxs) ▸ hrun⟩
      · exact hi.setAside

/-! ### Every step of the machine -/

namespace State.Sound

variable {s t : State} {c : Nat}

theorem congr (h : s.Sound) (hs : stacksOf t = stacksOf s) (hf : t.fault = s.fault) (hd : t.devstate = s.devstate)
    (hp : t.params = s.params) (hl : t.lock = s.lock) : t.Sound :=
  sound_iff.mpr (hs ▸ (sound_iff.mp h).congr hf hd hp hl)

theorem setRequests (h : s.Sound) (c : Nat) (q : List Request) : (setRequests c q s).Sound :=
  h.congr (stacks_setRequests c q s) rfl rfl rfl rfl

/-- An instruction that a word can encode. -/
theorem exec (h : s.Sound) {i : Instr} (hwf : i.wellFormed = true) (hcur : s.cur < s.ctxs.length) (he : exec i s = .next t) :
    t.Sound := by
  rcases exec_cases he with ⟨e, used, rfl, -⟩ | ⟨prog, ret, used, rfl, hshape, hchecked, hrange⟩
  · exact h.congr rfl rfl rfl rfl rfl
  · have hsteps : StepsSound s.params prog := ⟨hrange hwf h.upChecked, .inl hshape, hchecked⟩
    have hsound : SoundWith (useDraw used s) (stacksOf s) := (sound_iff.mp h).congr rfl rfl rfl rfl
    exact runOp_sound prog ⟨hcur, hsound.add (hsteps.frame 0 ret) (lockShape_not_both prog hshape)⟩

/-- An operation taken off its stack to be run. -/
theorem running (h : s.Sound) {f : Frame} {below : List Frame} (hst : (ctxAt s c).stack = f :: below) :
    RunningSound c f (setStack c below s) := by
  have hlt : c < s.ctxs.length := exists_of_stack (by simp [hst])
  refine ⟨by simpa using hlt, ?_⟩
  rw [stacks_setStack hlt, withFrame_withStack, withStack_eq_self hst]
  exact (sound_iff.mp h).congr rfl rfl rfl rfl

/-- An operation in progress that goes on. -/
theorem resume (h : s.Sound) (c : Nat) : (resume c s).Sound := by
  unfold Machine.resume
  split
  · exact h
  next f below hst =>
    split
    · exact h
    next hno =>
      obtain ⟨latch, todo, ret, inHandler⟩ := f
      obtain rfl : inHandler = false := by simpa using hno
      exact runOp_sound todo (h.running hst)

/-- The return of a line handler: the pass goes on after the bit it was examining, outside the lock (R193). -/
theorem handlerReturn (h : s.Sound) (c : Nat) : (handlerReturn c s).Sound := by
  unfold Machine.handlerReturn
  split
  · exact h
  next f below hst =>
    split
    case isFalse => exact h
    next hin =>
      obtain ⟨hlt, hsound⟩ := h.running hst
      obtain ⟨latch, todo, ret, inHandler⟩ := f
      obtain ⟨b, k, rest, rfl, hrest⟩ := hsound.frame.handler hin
      have hnext := hsound.frame.steps.tail.frame latch ret
      exact runOp_sound rest ⟨hlt, hsound.exchange hnext (lockShape_not_both rest hrest)⟩

/-- A step of the issuing context. -/
theorem act (h : s.Sound) (ha : act s.cur s = .next t) : t.Sound := by
  have lt {r : Request} {q : List Request} (hr : (ctxAt s s.cur).requests = r :: q) :
      (Machine.setRequests s.cur q s).cur < (Machine.setRequests s.cur q s).ctxs.length := by
    simpa using exists_of_requests (c := s.cur) (by simp [hr])
  unfold Machine.act at ha
  split at ha
  · cases ha
    exact h.resume _
  · next q hr =>
    unfold interruptEntry at ha
    split at ha
    · cases ha
      exact h.resume _
    · split at ha
      · exact (h.setRequests _ q).exec rfl (lt hr) ha
      · cases ha
        exact h.setRequests _ q
  · next q hr =>
    cases ha
    split
    · exact h.resume _
    · exact (h.setRequests _ q).handlerReturn _
  · next w q hr =>
    split at ha
    · cases ha
      exact h.resume _
    · unfold issue at ha
      split at ha
      · next i hd => exact (h.setRequests _ q).exec (wellFormed_of_decode hd) (lt hr) ha
      · cases ha

end State.Sound

end Sys2Proof.Machine

namespace Sys2Proof.Proofs

open Sys2Proof.Machine

/-- Settles O58: a step is a step of the issuing context or of the sampler, and each keeps soundness. -/
theorem stepKeepsSoundness : Obligations.StepKeepsSoundness := by
  intro s t h hstep
  unfold step serve at hstep
  split at hstep
  · cases hstep
  · split at hstep
    · exact h.act hstep
    · next c q _ =>
      have hs : State.Sound { s with agenda := q, cur := c } := h.congr rfl rfl rfl rfl rfl
      exact hs.act hstep
    · cases hstep
      exact h.congr (stacks_congr (by simp)) (by simp) (by simp) (by simp) (by simp)

end Sys2Proof.Proofs
end

section
/-! PROOF. The bus transactions of 40_register_access.md (R102 to R116): what an undisturbed read and write answer, the registers at an
address, and the logic fault of a bank index of 8 or more (R101). -/

namespace Sys2Proof.Machine

/-! ### One transaction -/

/-- An undisturbed read of a register in the window: the read and its value are the only outputs, and no register changes. -/
theorem busRead_eq {s : State} {r : Reg} (hq : s.quiet) (hr : (regOffset r).isSome = true) :
    busRead r s = .next { s with
      draws := if readDraws r s then s.draws + 1 else s.draws
      trace := s.trace ++ [.read s.cur r (readValue r s), .done s.cur (.value (readValue r s))] } := by
  rw [busRead, start, runOp_read _ _ _ _ _ _ hq hr, runOp_nil]
  simp [finish, emit, afterRead, Return.eval]

/-- An undisturbed read of a bank's register uses no free value. -/
theorem busRead_bank {s : State} (k : Kind) {b : Nat} (hq : s.quiet) (hb : b < 8) :
    busRead (.bank k b) s = .next { s with
      trace := s.trace ++ [.read s.cur (.bank k b) (readValue (.bank k b) s),
        .done s.cur (.value (readValue (.bank k b) s))] } := by
  rw [busRead_eq hq (regOffset_bank k b hb)]
  rfl

/-- An undisturbed write of a register in the window: the register stores, and the write and ok are the only outputs. -/
theorem busWrite_eq {s : State} {r : Reg} (v : Half) (hq : s.quiet) (hr : (regOffset r).isSome = true) :
    busWrite r v s = .next (finish s.cur .ok (afterWrite s.cur r v s)) := by
  rw [busWrite, start, runOp_write _ _ _ _ _ _ _ hq hr, runOp_nil]
  rfl

@[simp] theorem setWidth_byte (v : Byte) : (v.setWidth 16).setWidth 8 = v := by
  rw [BitVec.setWidth_setWidth_of_le v (by decide), BitVec.setWidth_eq]

/-- A transaction on a bank index of 8 or more is the logic fault, recorded in `FAULT` (R101, R203). -/
theorem start_badBank {s : State} {m : Micro} {k : Kind} {b : Nat} {ret : Return} (hq : s.quiet) (hfault : s.fault = [])
    (hb : 8 ≤ b) (hm : m = .read (.bank k b) ∨ ∃ u, m = .write (.bank k b) u) :
    start [m] ret s = .next { s with
      fault := [.badRegisterKind], trace := s.trace ++ [.done s.cur (.error .badRegisterKind)] } := by
  have hoff : regOffset (.bank k b) = none := if_neg (Nat.not_lt.mpr hb)
  have hraise : raiseLogicFault s.cur s = { s with
      fault := [.badRegisterKind], trace := s.trace ++ [.done s.cur (.error .badRegisterKind)] } := by
    simp [raiseLogicFault, finish, emit, hfault]
  rw [start, ← hraise]
  rcases hm with rfl | ⟨u, rfl⟩
  · rw [runOp_read_fault _ _ _ _ _ _ hq hoff]
  · rw [runOp_write_fault _ _ _ _ _ _ _ hq hoff]

/-! ### The register at an address -/

section
variable {b : Nat} (hb : b < 8)
include hb

theorem regAt_wdata : regAt (0x00 + b) 1 = some (.bank .wdata b) := by
  rw [regAt, if_pos rfl, if_pos (by omega), Nat.zero_add]

theorem regAt_rdata : regAt (0x08 + b) 1 = some (.bank .rdata b) := by
  rw [regAt, if_pos rfl, if_neg (by omega), if_pos (by omega), Nat.add_sub_cancel_left]

theorem regAt_evcfg : regAt (0x10 + 2 * b) 2 = some (.bank .evcfg b) := by
  rw [regAt, if_neg (by decide), if_pos rfl, if_pos (by omega), Nat.add_sub_cancel_left, Nat.mul_div_cancel_left b (by decide)]

theorem regAt_evsts : regAt (0x20 + b) 1 = some (.bank .evsts b) := by
  rw [regAt, if_pos rfl, if_neg (by omega), if_neg (by omega), if_neg (by omega), if_pos (by omega), Nat.add_sub_cancel_left]

end

/-- The register at an offset and width is the one that stands there with that width (R50, R54, R56). -/
theorem regAt_eq_some_iff {off n : Nat} {r : Reg} : regAt off n = some r ↔ regOffset r = some off ∧ regBytes r = n := by
  constructor
  · intro h
    simp only [regAt] at h
    split_ifs at h <;> cases h <;> simp [regOffset, kindOffset, regBytes] <;> omega
  · rintro ⟨hoff, rfl⟩
    cases r with
    | bank k b =>
      simp only [regOffset] at hoff
      split at hoff
      case isFalse => cases hoff
      case isTrue hb =>
        cases hoff
        cases k with
        | wdata => exact regAt_wdata hb
        | rdata => exact regAt_rdata hb
        | evcfg => exact regAt_evcfg hb
        | evsts => exact regAt_evsts hb
    | ctrl =>
      cases hoff
      rfl
    | clkcfg =>
      cases hoff
      rfl
    | portcfg =>
      cases hoff
      rfl

/-- The register at an address and width is the one the accessor gives that address, if its width is that one (R54, R100, R116). -/
theorem regAtAddress_eq_some_iff {p : Params} {a n : Nat} {r : Reg} :
    regAtAddress p a n = some r ↔ addr p r = some a ∧ regBytes r = n := by
  rw [regAtAddress, addr]
  split
  case isTrue hlt =>
    refine iff_of_false (by simp) ?_
    rintro ⟨haddr, -⟩
    obtain ⟨off, -, rfl⟩ := Option.map_eq_some_iff.mp haddr
    omega
  case isFalse hge =>
    rw [regAt_eq_some_iff, Option.map_eq_some_iff]
    refine and_congr_left fun _ => ⟨fun h => ⟨_, h, by omega⟩, ?_⟩
    rintro ⟨off, hoff, rfl⟩
    rw [hoff, Nat.add_sub_cancel_left]

end Sys2Proof.Machine

namespace Sys2Proof.Proofs

open Sys2Proof.Machine

/-- Settles O11: the register at an address is the one whose address that is. -/
theorem windowTransactionsFollowTheAccessor : Obligations.WindowTransactionsFollowTheAccessor := by
  intro s a n v
  refine ⟨fun r haddr hbytes => ?_, fun hnone => ?_⟩
  · have hat : regAtAddress s.params a n = some r := regAtAddress_eq_some_iff.mpr ⟨haddr, hbytes⟩
    simp only [memRead, memWrite, hat, and_self]
  · have hat : regAtAddress s.params a n = none := by
      refine Option.eq_none_iff_forall_ne_some.mpr fun r hr => ?_
      obtain ⟨haddr, hbytes⟩ := regAtAddress_eq_some_iff.mp hr
      exact hnone r haddr hbytes
    simp only [memRead, memWrite, hat, and_self]

/-- Settles O12: each transaction of a bank is one step on its register, and a recorded fault stops the machine. -/
theorem badBankIsALogicFault : Obligations.BadBankIsALogicFault := by
  refine ⟨fun s b v w i hq hfault hb hi => ?_, fun s hfault => ?_⟩
  · have read (k : Kind) := start_badBank (k := k) (ret := .latch) hq hfault hb (.inl rfl)
    have write (k : Kind) (u : Update) := start_badBank (k := k) (ret := .ok) hq hfault hb (.inr ⟨u, rfl⟩)
    simp only [List.mem_cons, List.not_mem_nil, or_false] at hi
    rcases hi with rfl | rfl | rfl | rfl | rfl | rfl | rfl | rfl
    · exact read .wdata
    · exact write .wdata _
    · exact read .rdata
    · exact write .rdata _
    · exact read .evcfg
    · exact write .evcfg _
    · exact read .evsts
    · exact write .evsts _
  · rw [step, serve, if_pos hfault]

/-- Settles O13: a read of each kind of register. -/
theorem bankReadsReturnTheRegister : Obligations.BankReadsReturnTheRegister := fun _ _ hq hb =>
  ⟨busRead_bank .wdata hq hb, busRead_bank .rdata hq hb, busRead_bank .evcfg hq hb, busRead_bank .evsts hq hb⟩

/-- Settles O14: a register with undescribed bits reads as `seenReserved` of it. -/
theorem controlReadsReturnTheRegister : Obligations.ControlReadsReturnTheRegister := by
  intro s hq
  refine ⟨⟨_, _, busRead_eq (r := .ctrl) hq rfl, seenReserved_and_described _ _ _ _, fun hstored => ⟨?_, ?_⟩⟩,
    ⟨_, _, busRead_eq (r := .clkcfg) hq rfl, seenReserved_and_described _ _ _ _, fun hstored => ⟨?_, ?_⟩⟩⟩
  · exact seenReserved_stored _ _ _ _ hstored
  · simp [readDraws, hstored]
  · exact seenReserved_stored _ _ _ _ hstored
  · simp [readDraws, hstored]

/-- Settles O15: the three cases of `seenPort`. -/
theorem portReadsReturnTheReadback : Obligations.PortReadsReturnTheReadback := by
  intro s hq
  refine ⟨seenPort s, _, busRead_eq (r := .portcfg) hq rfl, fun hno => ?_, fun hwritten hlow hhigh => ?_⟩
  · simp [seenPort, readDraws, hno]
  · have hlegal : portLegal s.portcfg = true := decide_eq_true ⟨hlow, hhigh⟩
    have hseen : seenPort s = portReadback s.params s.portcfg := by simp [seenPort, hwritten, hlegal]
    exact ⟨hseen, fun hnil => by simp [hseen, portReadback, hnil], by simp [readDraws, hwritten, hlegal]⟩

/-- Settles O16: a write to each of the two kinds. -/
theorem dataWritesStoreOrAreIgnored : Obligations.DataWritesStoreOrAreIgnored := by
  intro s b v hq hb
  have hw := busWrite_eq (v.setWidth 16) hq (regOffset_bank .wdata b hb)
  have hr := busWrite_eq (v.setWidth 16) hq (regOffset_bank .rdata b hb)
  simp only [finish, afterWrite, emit, storeReg, setWidth_byte, List.append_assoc, List.cons_append, List.nil_append] at hw hr
  exact ⟨hw, hr⟩

/-- Settles O17: a write to an event-config register. -/
theorem eventConfigWritesStore : Obligations.EventConfigWritesStore := by
  intro s b v hq hb
  have hw := busWrite_eq v hq (regOffset_bank .evcfg b hb)
  simp only [finish, afterWrite, emit, storeReg, List.append_assoc, List.cons_append, List.nil_append] at hw
  exact hw

/-- Settles O18: a write to a status register stores `clearWritten`. -/
theorem statusWritesClearWrittenOnes : Obligations.StatusWritesClearWrittenOnes := by
  intro s b v hq hb
  refine ⟨clearWritten (entry s.evsts b) v, ?_, fun k hk => getLsbD_clearWritten _ _ k hk⟩
  have hw := busWrite_eq (v.setWidth 16) hq (regOffset_bank .evsts b hb)
  simp only [finish, afterWrite, emit, storeReg, setWidth_byte, List.append_assoc, List.cons_append, List.nil_append] at hw
  exact hw

/-- Settles O19: a write to each of the three global registers. -/
theorem globalWritesStore : Obligations.GlobalWritesStore := by
  intro s v hq
  have hctrl := busWrite_eq (r := .ctrl) (v.setWidth 16) hq rfl
  have hclk := busWrite_eq (r := .clkcfg) (v.setWidth 16) hq rfl
  have hport := busWrite_eq (r := .portcfg) (v.setWidth 16) hq rfl
  simp only [finish, afterWrite, emit, storeReg, setWidth_byte, List.append_assoc, List.cons_append, List.nil_append]
    at hctrl hclk hport
  exact ⟨hctrl, hclk, hport⟩

end Sys2Proof.Proofs
end

section
/-! PROOF. INIT, CLKSEL, PORTW and IFEN of 42_init_clock_port.md (R132 to R139): the divider selection, an undisturbed run of each, and INIT's
errors and refusals in their order (R211). -/

namespace Sys2Proof.Machine

/-! ### The walk of the Clock Divider Selector -/

section
variable {ref req : Nat} {e : ClkEntry} {rest : List ClkEntry} (prev : Option (BitVec 4)) (sel : BitVec 4)

/-- The first overshoot after the first entry selects the entry before it (R132). -/
theorem selectFrom_overshoot (h : req < ref / e.div) : selectFrom ref req (some sel) (e :: rest) = some sel := by
  simp [selectFrom, h]

/-- A first entry that is not the last is passed, whatever its candidate (R132). -/
theorem selectFrom_first (h : rest ≠ []) : selectFrom ref req none (e :: rest) = selectFrom ref req (some e.sel) rest := by
  simp [selectFrom, h]

/-- An entry that does not overshoot and is not the last is passed (R132). -/
theorem selectFrom_pass (h : ref / e.div ≤ req) (hrest : rest ≠ []) :
    selectFrom ref req prev (e :: rest) = selectFrom ref req (some e.sel) rest := by
  cases prev <;> simp [selectFrom, Nat.not_lt.mpr h, hrest]

/-- A request above the last candidate selects the last entry (R132). -/
theorem selectFrom_above_last (h : ref / e.div < req) : selectFrom ref req prev [e] = some e.sel := by
  cases prev <;> simp [selectFrom, h, Nat.not_lt.mpr h.le]

/-- A request equal to the last candidate finds nothing (R137). -/
theorem selectFrom_equal_last (h : req = ref / e.div) : selectFrom ref req prev [e] = none := by
  cases prev <;> simp [selectFrom, h]

/-- The one entry of a table is not selected by a request at or below its candidate (R137). -/
theorem selectFrom_only (h : req ≤ ref / e.div) : selectFrom ref req none [e] = none := by
  simp [selectFrom, Nat.not_lt.mpr h]

end

/-- In a table whose candidates ascend, the walk passes every entry before one whose candidate is at most the request. -/
theorem selectFrom_drop {ref req : Nat} {tab : List ClkEntry} (hasc : tab.Pairwise (fun e f => ref / e.div ≤ ref / f.div))
    {j : Nat} (hj : j < tab.length) (hle : ref / (tab[j]'hj).div ≤ req) (prev : Option (BitVec 4)) :
    ∃ prev', selectFrom ref req prev tab = selectFrom ref req prev' (tab[j]'hj :: tab.drop (j + 1)) := by
  induction j generalizing tab prev with
  | zero =>
    cases tab with
    | nil => cases hj
    | cons e rest => exact ⟨prev, rfl⟩
  | succ j ih =>
    cases tab with
    | nil => cases hj
    | cons e rest =>
      obtain ⟨hfirst, hrest⟩ := List.pairwise_cons.mp hasc
      have hj' : j < rest.length := Nat.lt_of_succ_lt_succ hj
      have he : ref / e.div ≤ req := (hfirst _ (List.getElem_mem hj')).trans hle
      have hne : rest ≠ [] := List.ne_nil_of_length_pos (Nat.zero_lt_of_lt hj')
      obtain ⟨prev', h⟩ := ih hrest hj' hle (some e.sel)
      exact ⟨prev', (selectFrom_pass prev he hne).trans h⟩

/-! ### Undisturbed runs of the sequences of INIT -/

/-- What a read of `CLKCFG` returns (R112). -/
def clkcfgSeen (s : State) : Byte := seenReserved s.params s.draws clkcfgDescribed s.clkcfg

/-- What a read of `CTRL` returns (R110). -/
def ctrlSeen (s : State) : Byte := seenReserved s.params s.draws ctrlDescribed s.ctrl

/-- How many free values have been used after a read of `CTRL` or `CLKCFG` (R28). -/
def drawsAfterSeen (s : State) : Nat := if s.params.reservedBits = .draw then s.draws + 1 else s.draws

/-- The described divider and polarity bits 5:4 of `CLKCFG` are read as they are (R26, R28). -/
theorem clkcfgSeen_bits (s : State) : (clkcfgSeen s).extractLsb' 4 2 = s.clkcfg.extractLsb' 4 2 :=
  extract_of_and (m := clkcfgDescribed) (by decide) (seenReserved_and_described s.params s.draws clkcfgDescribed s.clkcfg)

theorem ctrlSeen_described (s : State) : ctrlSeen s &&& 0x86 = s.ctrl &&& 0x86 :=
  seenReserved_and_described s.params s.draws ctrlDescribed s.ctrl

section
variable {s : State} (h : s.params.reservedBits = .stored)
include h

theorem clkcfgSeen_stored : clkcfgSeen s = s.clkcfg := seenReserved_stored _ _ _ _ h

theorem ctrlSeen_stored : ctrlSeen s = s.ctrl := seenReserved_stored _ _ _ _ h

theorem drawsAfterSeen_stored : drawsAfterSeen s = s.draws := by simp [drawsAfterSeen, h]

end

/-- The state after the two transactions of CLKSEL with selection `sel` (R133). -/
def afterClksel (c : Nat) (sel : BitVec 4) (s : State) : State :=
  { s with
    clkcfg := clkValue (clkcfgSeen s) sel, draws := drawsAfterSeen s
    trace := s.trace ++ [.read c .clkcfg ((clkcfgSeen s).setWidth 16),
      .write c .clkcfg ((clkValue (clkcfgSeen s) sel).setWidth 16)] }

/-- The `CTRL` value IFEN leaves (R136). -/
def ctrlAfterIfen (en : Bool) (s : State) : Byte := ifenValue s.params.rdModePeriodic en (ctrlSeen s)

/-- The state after the two transactions of IFEN (R136). -/
def afterIfen (c : Nat) (en : Bool) (s : State) : State :=
  { s with
    ctrl := ctrlAfterIfen en s, draws := drawsAfterSeen s
    trace := s.trace ++ [.read c .ctrl ((ctrlSeen s).setWidth 16), .write c .ctrl ((ctrlAfterIfen en s).setWidth 16)] }

/-- An undisturbed CLKSEL with a selection found (R132, R133). -/
theorem runOp_clksel (c : Nat) (ret : Return) (sel : BitVec 4) (rest : List Micro) (latch : Half) (s : State)
    (hq : s.turns = []) :
    runOp c ret (clkselSteps sel ++ rest) latch s =
      runOp c ret rest ((clkcfgSeen s).setWidth 16) (afterClksel c sel s) := by
  rw [clkselSteps, List.cons_append, List.cons_append, List.nil_append, runOp_read _ _ _ _ _ _ hq rfl,
    runOp_write _ _ _ _ _ _ (afterRead c .clkcfg s) hq rfl]
  simp [afterWrite, afterRead, storeReg, emit, readValue, readDraws, Update.eval, afterClksel, clkcfgSeen, drawsAfterSeen]

/-- An undisturbed IFEN, by the state it leaves (R136). -/
theorem runOp_ifenSteps (c : Nat) (ret : Return) (en : Bool) (rest : List Micro) (latch : Half) (s : State)
    (hq : s.turns = []) :
    runOp c ret (ifenSteps en ++ rest) latch s = runOp c ret rest ((ctrlSeen s).setWidth 16) (afterIfen c en s) :=
  runOp_ifen c ret en rest latch s hq

/-- What a read of PORTCFG returns right after a write of `v`, with `n` free values used before (R114, R115). -/
def portSeenAfter (p : Params) (n : Nat) (v : Byte) : Byte :=
  if portLegal v then portReadback p v else Config.freePortRead n

theorem setWidth_byte_inj {u v : Byte} : u.setWidth 16 = v.setWidth 16 ↔ u = v := by
  refine ⟨fun h => ?_, congrArg _⟩
  rw [← setWidth_byte u, h, setWidth_byte]

/-- The state after the two transactions of PORTW, a write of `v` and its read-back (R135). -/
def afterPortw (c : Nat) (v : Byte) (s : State) : State :=
  { s with
    portcfg := v, portWritten := true
    draws := if portLegal v then s.draws else s.draws + 1
    trace := s.trace ++ [.write c .portcfg (v.setWidth 16),
      .read c .portcfg ((portSeenAfter s.params s.draws v).setWidth 16)] }

/-- An undisturbed PORTW (R135). -/
theorem runOp_portw (c : Nat) (ret : Return) (v : Byte) (rest : List Micro) (latch : Half) (s : State)
    (hq : s.turns = []) :
    runOp c ret (portwSteps v ++ rest) latch s =
      if portSeenAfter s.params s.draws v = v then
        runOp c ret rest ((portSeenAfter s.params s.draws v).setWidth 16) (afterPortw c v s)
      else finish c (.error .portWidthReadbackMismatch) (afterPortw c v s) := by
  have hwrite : afterRead c .portcfg (afterWrite c .portcfg (v.setWidth 16) s) = afterPortw c v s := by
    cases h : portLegal v <;>
      simp [afterWrite, afterRead, storeReg, emit, readValue, readDraws, seenPort, afterPortw, portSeenAfter, h]
  have hread : readValue .portcfg (afterWrite c .portcfg (v.setWidth 16) s) =
      (portSeenAfter s.params s.draws v).setWidth 16 := by
    simp [afterWrite, storeReg, emit, readValue, seenPort, portSeenAfter]
  rw [portwSteps, List.cons_append, List.cons_append, List.cons_append, List.nil_append,
    runOp_write _ _ _ _ _ _ _ hq rfl, Update.eval, runOp_read _ _ _ _ _ _ (by simpa using hq) rfl, hwrite, hread,
    runOp_check _ _ _ _ _ _ (by exact hq)]
  simp only [setWidth_byte_inj]

/-! ### CLKSEL, PORTW and INIT past their checks -/

theorem tableRefusal_none {s : State} (h : hasZeroDivisor s.params.clktab = false) : tableRefusal s = none := by
  simp [tableRefusal, h]

/-- CLKSEL with a legal table (R132). -/
theorem exec_clksel {s : State} (h : hasZeroDivisor s.params.clktab = false) :
    exec .clksel s =
      match clkselChoice s with
      | none => raise .dividerTableExhausted (useDraw (clkselDraws s.params) s)
      | some sel => start (clkselSteps sel) .ok (useDraw (clkselDraws s.params) s) := by
  rw [exec, execClksel, tableRefusal_none h]
  rfl

/-- With both frequencies present CLKSEL computes with them. -/
theorem clkselChoice_eq {s : State} {ref req : Nat} (href : s.params.refHz = some ref) (hreq : s.params.reqHz = some req) :
    clkselChoice s = selectDivider ref req s.params.clktab ∧ clkselDraws s.params = false := by
  simp [clkselChoice, refHzRead, reqHzRead, clkselDraws, href, hreq]

/-- INIT on a device that is down, with a legal table (R139). -/
theorem exec_init {s : State} (hdown : s.devstate = .down) (h : hasZeroDivisor s.params.clktab = false) :
    exec .init s =
      match initError s.params with
      | some e => raise e s
      | none =>
        match clkselChoice s with
        | none => raise .dividerTableExhausted s
        | some sel => start (clkselSteps sel ++ portwSteps (portByte s.params) ++ ifenSteps true ++ [.bringUp]) .ok s := by
  rw [exec, execInit, initRefusal, if_neg (by simp [hdown]), tableRefusal_none h]
  rfl

/-- The first error of INIT with every property present (R211). -/
theorem initError_eq {p : Params} {nin nout req : Nat} (hnin : p.nin = some nin) (hnout : p.nout = some nout)
    (hreq : p.reqHz = some req) :
    initError p = if nin > 64 ∨ nout > 64 then some .lineCountExceedsMax
      else if p.refHz = none then some .clockReferenceMissing else none := by
  simp [initError, hnin, hnout, hreq]

section
variable {s : State} {sel : BitVec 4}

/-- An undisturbed CLKSEL with a selection found: one read and one write of CLKCFG. -/
theorem start_clksel (hq : s.quiet) :
    start (clkselSteps sel) .ok s = .next (finish s.cur .ok (afterClksel s.cur sel s)) := by
  have h := runOp_clksel s.cur .ok sel [] 0 s hq
  rw [List.append_nil, runOp_nil] at h
  exact congrArg _ h

variable {nin nout ref req : Nat} (hdown : s.devstate = .down) (hnin : s.params.nin = some nin)
  (hnout : s.params.nout = some nout) (hreq : s.params.reqHz = some req) (href : s.params.refHz = some ref)
  (hnin64 : nin ≤ 64) (hnout64 : nout ≤ 64) (hdiv : hasZeroDivisor s.params.clktab = false)
  (hsel : selectDivider ref req s.params.clktab = some sel)
include hnin hnout hnin64 hnout64

/-- The port-width byte of counts that INIT admits reads back by `PORT_READBACK` (R27, R134). -/
theorem portSeenAfter_portByte (n : Nat) :
    portLegal (portByte s.params) = true ∧
      portSeenAfter s.params n (portByte s.params) = portReadback s.params (portByte s.params) := by
  have hlegal : portLegal (portByte s.params) = true :=
    portLegal_portByte (by simpa [Params.noutN, hnout] using hnout64) (by simpa [Params.ninN, hnin] using hnin64)
  exact ⟨hlegal, by rw [portSeenAfter, if_pos hlegal]⟩

include hdown hreq href hdiv hsel

/-- INIT that meets no error before the hardware: CLKSEL, then PORTW, and IFEN and the device up when the read-back agrees (R139, R140). -/
theorem exec_init_hardware (hq : s.quiet) :
    exec .init s = .next
      (if portReadback s.params (portByte s.params) = portByte s.params then
        finish s.cur .ok
          { afterIfen s.cur true (afterPortw s.cur (portByte s.params) (afterClksel s.cur sel s)) with devstate := .up }
        else finish s.cur (.error .portWidthReadbackMismatch) (afterPortw s.cur (portByte s.params) (afterClksel s.cur sel s))) := by
  have hseen := (portSeenAfter_portByte hnin hnout hnin64 hnout64 (afterClksel s.cur sel s).draws).2
  have herr : initError s.params = none := by
    rw [initError_eq hnin hnout hreq, if_neg (by omega), if_neg (by simp [href])]
  rw [exec_init hdown hdiv, herr, (clkselChoice_eq href hreq).1, hsel]
  dsimp only
  rw [start, List.append_assoc, List.append_assoc, runOp_clksel _ _ _ _ _ _ hq, runOp_portw _ _ _ _ _ _ (by exact hq)]
  change Host.Outcome.next (if portSeenAfter s.params _ _ = _ then _ else _) = _
  rw [hseen, runOp_ifenSteps _ _ _ _ _ _ (by exact hq), runOp_bringUp _ _ _ _ _ (by exact hq)]
  rfl

end

end Sys2Proof.Machine

namespace Sys2Proof.Proofs

open Sys2Proof.Machine

/-- Settles O20: the walk reaches the entry in question, and one equation of the walk says what it does there. -/
theorem dividerSelectionByThreshold : Obligations.DividerSelectionByThreshold := by
  refine ⟨fun ref req tab hasc => ⟨fun hlen hlt => ?_, fun j hj hle hlt => ?_, fun j hj hlast hlt => ?_,
    fun j hj _ hlast heq => ?_⟩, fun _ _ => rfl, fun ref req e h => selectFrom_only h⟩
  · match tab, hlen, hlt with
    | e :: f :: rest, _, hlt => exact (selectFrom_first (List.cons_ne_nil f rest)).trans (selectFrom_overshoot e.sel hlt)
  · obtain ⟨prev, hdrop⟩ := selectFrom_drop hasc (by omega) hle none
    have hnext : tab.drop (j + 1) = tab[j + 1] :: tab.drop (j + 2) := List.drop_eq_getElem_cons hj
    rw [selectDivider, hdrop, hnext, selectFrom_pass prev hle (List.cons_ne_nil _ _), selectFrom_overshoot _ hlt]
  · obtain ⟨prev, hdrop⟩ := selectFrom_drop hasc hj hlt.le none
    rw [selectDivider, hdrop, List.drop_of_length_le hlast.ge, selectFrom_above_last prev hlt]
  · obtain ⟨prev, hdrop⟩ := selectFrom_drop hasc hj heq.ge none
    rw [selectDivider, hdrop, List.drop_of_length_le hlast.ge, selectFrom_equal_last prev heq]

/-- Settles O21: the run of CLKSEL; with a frequency absent, what the walk selects is an entry of the table. -/
theorem clkselWritesTheSelection : Obligations.ClkselWritesTheSelection := by
  have hrun (s u : State) (sel : BitVec 4) (hq : s.quiet) (hu : exec .clksel u = start (clkselSteps sel) .ok s) :
      exec .clksel u = .next { s with
        clkcfg := clkValue (clkcfgSeen s) sel, draws := drawsAfterSeen s
        trace := s.trace ++ [.read s.cur .clkcfg ((clkcfgSeen s).setWidth 16),
          .write s.cur .clkcfg ((clkValue (clkcfgSeen s) sel).setWidth 16), .done s.cur .ok] } := by
    rw [hu, start_clksel hq]
    simp [finish, emit, afterClksel]
  refine ⟨fun s ref req sel hq href hreq hdiv hsel => ?_, fun s hq habsent hdiv => ?_⟩
  · obtain ⟨hchoice, hdraws⟩ := clkselChoice_eq href hreq
    have hexec : exec .clksel s = start (clkselSteps sel) .ok s := by
      rw [exec_clksel hdiv, hchoice, hsel, hdraws]
      rfl
    exact ⟨clkcfgSeen s, _, _, hrun s s sel hq hexec, clkValue_low _ _, clkValue_high _ _, clkcfgSeen_bits s,
      fun hstored => ⟨clkcfgSeen_stored hstored, drawsAfterSeen_stored hstored⟩⟩
  · have hchoice := exec_clksel hdiv
    cases hsel : clkselChoice s with
    | none =>
      rw [hsel] at hchoice
      exact .inr ⟨_, hchoice⟩
    | some sel =>
      rw [hsel] at hchoice
      obtain hnone | ⟨e, he, rfl⟩ := selectFrom_mem _ _ sel _ _ hsel
      · cases hnone
      · let u := useDraw (clkselDraws s.params) s
        exact .inl ⟨e, he, clkcfgSeen u, _, _, hrun u s e.sel hq hchoice, clkValue_low _ _, clkValue_high _ _,
          clkcfgSeen_bits u, fun hstored => clkcfgSeen_stored (s := u) hstored⟩

/-- Settles O22: an exhausted table is an error before any step. -/
theorem clkselExhaustedChangesNothing : Obligations.ClkselExhaustedChangesNothing := by
  intro s ref req href hreq hdiv hsel
  obtain ⟨hchoice, hdraws⟩ := clkselChoice_eq href hreq
  rw [exec_clksel hdiv, hchoice, hsel, hdraws]
  rfl

/-- Settles O23: the run of PORTW; counts of at most 64 make its byte legal. -/
theorem portwWritesAndChecks : Obligations.PortwWritesAndChecks := by
  have hrun (s : State) (v : Byte) (hq : s.quiet) : start (portwSteps v) .ok s =
      .next (finish s.cur (if portSeenAfter s.params s.draws v = v then .ok else .error .portWidthReadbackMismatch)
        (afterPortw s.cur v s)) := by
    have h := runOp_portw s.cur .ok v [] 0 s hq
    rw [List.append_nil, runOp_nil] at h
    rw [start, h]
    split <;> rfl
  refine ⟨fun s hq => ?_, fun s nin nout hq hnin hnout hnin64 hnout64 => ?_⟩
  · let u := useDraw (portwDraws s.params) s
    refine ⟨portByteRead s, portSeenAfter s.params u.draws (portByteRead s), (afterPortw s.cur (portByteRead s) u).draws,
      (hrun u _ hq).trans ?_⟩
    simp only [finish, emit, afterPortw, List.append_assoc, List.cons_append, List.nil_append]
    rfl
  · have hbyte : portByteRead s = portByte s.params := by
      simp [portByteRead, portByte, inPorts, outPorts, Params.ninN, Params.noutN, hnin, hnout]
    have hdraws : portwDraws s.params = false := by simp [portwDraws, hnin, hnout]
    obtain ⟨hlegal, hseen⟩ := portSeenAfter_portByte hnin hnout hnin64 hnout64 s.draws
    obtain ⟨hlow, hhigh⟩ := portByte_nibbles (p := s.params) (by simpa [Params.noutN, hnout] using hnout64)
      (by simpa [Params.ninN, hnin] using hnin64)
    refine ⟨portByte s.params, by simpa [Params.ninN, hnin] using hlow, by simpa [Params.noutN, hnout] using hhigh, ?_,
      fun hnil => by simp [portReadback, hnil]⟩
    rw [exec, execPortw, hbyte, hdraws, useDraw_false, hrun s _ hq, hseen]
    simp [finish, emit, afterPortw, hlegal, hseen]

/-- Settles O24: the run of IFEN. -/
theorem ifenRewritesCtrl : Obligations.IfenRewritesCtrl := by
  intro s en hq
  refine ⟨ctrlSeen s, ctrlAfterIfen en s, drawsAfterSeen s, ?_, ifenValue_enable _ _ _, ifenValue_mode _ _ _,
    ifenValue_kept _ _ _, ctrlSeen_described s, fun hstored => ⟨ctrlSeen_stored hstored, drawsAfterSeen_stored hstored⟩⟩
  have hrun := runOp_ifenSteps s.cur .ok en [] 0 s hq
  rw [List.append_nil, runOp_nil] at hrun
  rw [exec, execIfen, start, hrun]
  simp [finish, emit, afterIfen, Return.eval]

/-- Settles O25: after PORTW whose byte reads back, IFEN and the last step. -/
theorem initBringsTheDeviceUp : Obligations.InitBringsTheDeviceUp := by
  intro s nin nout ref req sel hq hdown hnin hnout hreq href hnin64 hnout64 hdiv hsel hback
  let u := afterPortw s.cur (portByte s.params) (afterClksel s.cur sel s)
  obtain ⟨hlegal, hseen⟩ := portSeenAfter_portByte hnin hnout hnin64 hnout64 (afterClksel s.cur sel s).draws
  refine ⟨clkcfgSeen s, clkValue (clkcfgSeen s) sel, ctrlSeen u, ctrlAfterIfen true u, drawsAfterSeen u, ?_, clkValue_low _ _,
    clkValue_high _ _, clkcfgSeen_bits s, ifenValue_enable _ _ _, ifenValue_mode _ _ _, ifenValue_kept _ _ _,
    ctrlSeen_described u, fun hstored => ⟨clkcfgSeen_stored hstored, ctrlSeen_stored (s := u) hstored, ?_⟩⟩
  · have htrace : u.trace = s.trace ++ [.read s.cur .clkcfg ((clkcfgSeen s).setWidth 16),
        .write s.cur .clkcfg ((clkValue (clkcfgSeen s) sel).setWidth 16),
        .write s.cur .portcfg ((portByte s.params).setWidth 16), .read s.cur .portcfg ((portByte s.params).setWidth 16)] := by
      change _ ++ [_, Event.read _ _ ((portSeenAfter s.params _ _).setWidth 16)] = _
      rw [hseen, hback]
      simp [afterClksel]
    rw [exec_init_hardware hdown hnin hnout hreq href hnin64 hnout64 hdiv hsel hq, if_pos hback]
    change Host.Outcome.next (finish s.cur .ok { afterIfen s.cur true u with devstate := .up }) = _
    simp only [finish, emit, afterIfen, htrace, List.append_assoc, List.cons_append, List.nil_append]
    rfl
  · rw [drawsAfterSeen_stored (s := u) hstored]
    exact (if_pos hlegal).trans (drawsAfterSeen_stored hstored)

/-- Settles O26: the errors of INIT before the hardware, in order. -/
theorem initFailsBeforeTheHardware : Obligations.InitFailsBeforeTheHardware := by
  intro s hdown hdiv fails
  have fails_of {e : Err} (h : initError s.params = some e) : fails e := by
    simp only [fails]
    rw [exec_init hdown hdiv, h]
    rfl
  refine ⟨fun habsent => fails_of ?_, fun nin nout req hnin hnout hreq => ⟨fun hcount => fails_of ?_, fun hnin64 hnout64 =>
    ⟨fun href => fails_of ?_, fun ref href hsel => ?_⟩⟩⟩
  · unfold initError
    split
    · next hnin hnout hreq => simp [hnin, hnout, hreq] at habsent
    · rfl
  · rw [initError_eq hnin hnout hreq, if_pos hcount]
  · rw [initError_eq hnin hnout hreq, if_neg (by omega), if_pos href]
  · have herr : initError s.params = none := by
      rw [initError_eq hnin hnout hreq, if_neg (by omega), if_neg (by simp [href])]
    simp only [fails]
    rw [exec_init hdown hdiv, herr, (clkselChoice_eq href hreq).1, hsel]
    rfl

/-- Settles O27: INIT ends where PORTW's check fails, before IFEN. -/
theorem initReadbackMismatchLeavesTheDeviceDown : Obligations.InitReadbackMismatchLeavesTheDeviceDown := by
  intro s nin nout ref req sel hq hdown hnin hnout hreq href hnin64 hnout64 hdiv hsel hback
  obtain ⟨hlegal, hseen⟩ := portSeenAfter_portByte hnin hnout hnin64 hnout64 (drawsAfterSeen s)
  refine ⟨clkcfgSeen s, clkValue (clkcfgSeen s) sel, drawsAfterSeen s, ?_, clkValue_low _ _, clkValue_high _ _,
    clkcfgSeen_bits s, fun hstored => ⟨clkcfgSeen_stored hstored, drawsAfterSeen_stored hstored⟩⟩
  rw [exec_init_hardware hdown hnin hnout hreq href hnin64 hnout64 hdiv hsel hq, if_neg hback]
  simp [finish, emit, afterPortw, afterClksel, hlegal, hseen]

/-- Settles O28: the refusals of INIT and CLKSEL, in the order of their checks. -/
theorem initRefusals : Obligations.InitRefusals := by
  refine fun s => ⟨fun hup => ?_, fun hzero => ?_⟩
  · rw [exec, execInit, initRefusal, if_pos hup, unlessRefused]
  · have htable : tableRefusal s = some .zeroDivisor := if_pos hzero
    refine ⟨?_, fun hdown => ?_⟩
    · rw [exec, execClksel, htable, unlessRefused]
    · rw [exec, execInit, initRefusal, if_neg (by simp [hdown]), htable, unlessRefused]

end Sys2Proof.Proofs
end

section
/-! PROOF. The Line I/O Engine of 43_line_io.md, continued: SET and DIROUT (R152, R154), the round trip and the isolation of the outputs (R156,
R157), the refusals (R155, R165), and the lost update of two interleaved SETs (R64, R236). -/

namespace Sys2Proof.Machine

/-! ### Driving a line -/

section
variable {s : State} {o : Nat} (v : Bool) (hup : s.devstate = .up)
include hup

/-- SET and DIROUT of an output line run the same read-modify-write (R152, R154). -/
theorem exec_drive_output {i : Instr} (hout : o < s.params.noutN) (hi : i ∈ [Instr.set o v, .dirout o v]) :
    exec i s = start (setSteps o v) .ok s := by
  have hline : ∀ k, unlessRefused (lineRefusal o s) k = k := unlessRefused_lineRefusal hup (by omega)
  have hif : ∀ k : Answer, (if isOutput s.params o then start (setSteps o v) .ok s else k) = start (setSteps o v) .ok s :=
    fun k => if_pos (isOutput_eq_true_iff.mpr hout)
  simp only [List.mem_cons, List.not_mem_nil, or_false] at hi
  rcases hi with rfl | rfl
  · rw [exec, execSet, hline, hif]
  · rw [exec, execDirout, hline, hif]

/-- SET and DIROUT of an input line raise their error before any step (R152, R154). -/
theorem exec_drive_input {i : Instr} (hge : s.params.noutN ≤ o) (hlt : o < s.params.noutN + s.params.ninN)
    (hi : i ∈ [Instr.set o v, .dirout o v]) : exec i s = raise .directionMismatch s := by
  have hline : ∀ k, unlessRefused (lineRefusal o s) k = k := unlessRefused_lineRefusal hup hlt
  have hif : ∀ k : Answer, (if isOutput s.params o then k else raise .directionMismatch s) = raise .directionMismatch s :=
    fun k => if_neg (by rw [isOutput_eq_true_iff]; omega)
  simp only [List.mem_cons, List.not_mem_nil, or_false] at hi
  rcases hi with rfl | rfl
  · rw [exec, execSet, hline, hif]
  · rw [exec, execDirout, hline, hif]

end

/-- The data byte that SET of output line `o` writes (R154). -/
def drivenByte (o : Nat) (v : Bool) (s : State) : Byte := setBitValue (entry s.wdata (bankOf o)) (bitOf o) v

/-- The state after an undisturbed SET of output line `o` (R154). -/
def afterSet (o : Nat) (v : Bool) (s : State) : State :=
  { s with
    wdata := putEntry s.wdata (bankOf o) (drivenByte o v s)
    trace := s.trace ++ [.read s.cur (.bank .wdata (bankOf o)) ((entry s.wdata (bankOf o)).setWidth 16),
      .write s.cur (.bank .wdata (bankOf o)) ((drivenByte o v s).setWidth 16), .done s.cur .ok] }

/-- The read-modify-write of SET, undisturbed: one read and one write of the line's `WDATA` byte. -/
theorem start_setSteps {s : State} {o : Nat} (v : Bool) (hq : s.quiet) (ho : o < 64) :
    start (setSteps o v) .ok s = .next (afterSet o v s) := by
  have hb := regOffset_bank .wdata (bankOf o) (bankOf_lt_eight_iff.mpr ho)
  rw [start, setSteps, outCoord, runOp_read _ _ _ _ _ _ hq hb, runOp_write _ _ _ _ _ _ _ (by exact hq) hb, runOp_nil]
  simp [finish, emit, afterWrite, afterRead, storeReg, readValue, readDraws, Update.eval, Return.eval, afterSet, drivenByte]

/-- The driven line gets the level, the other seven of its bank are as read (R154). -/
theorem getLsbD_drivenByte (o : Nat) (v : Bool) (s : State) {j : Nat} (hj : j < 8) :
    (drivenByte o v s).getLsbD j = if j = bitOf o then v else (entry s.wdata (bankOf o)).getLsbD j :=
  getLsbD_setBitValue _ _ _ v (bitOf_lt_eight o) hj

/-- The byte of a bank after SET. -/
theorem entry_afterSet {s : State} {o : Nat} (v : Bool) (ho : o < 64) (b : Nat) :
    entry (afterSet o v s).wdata b = if b = bankOf o then drivenByte o v s else entry s.wdata b := by
  have hb : bankOf o < 8 := bankOf_lt_eight_iff.mpr ho
  change entry (putEntry s.wdata (bankOf o) _) b = _
  rw [entry_putEntry]
  simp [hb, eq_comm]

/-- Two positions with the same bank and the same bit are one. -/
theorem position_ext {p o : Nat} (hbank : bankOf p = bankOf o) (hbit : bitOf p = bitOf o) : p = o := by
  rw [← eight_mul_bankOf_add_bitOf p, hbank, hbit, eight_mul_bankOf_add_bitOf]

/-- The output levels after SET (R156, R157). -/
theorem outPin_afterSet {s : State} {o : Nat} (v : Bool) (ho : o < 64) (p : Nat) :
    outPin (afterSet o v s) p = if p = o then v else outPin s p := by
  rw [outPin, entry_afterSet v ho]
  by_cases hbank : bankOf p = bankOf o
  · rw [if_pos hbank, getLsbD_drivenByte o v s (bitOf_lt_eight p)]
    by_cases hbit : bitOf p = bitOf o
    · rw [if_pos hbit, if_pos (position_ext hbank hbit)]
    · rw [if_neg hbit, if_neg fun h => hbit (congrArg bitOf h), outPin, hbank]
  · rw [if_neg hbank, if_neg fun h => hbank (congrArg bankOf h), outPin]

/-! ### Refusals -/

section
variable {s : State} {l : Nat}

theorem lineRefusal_down (h : s.devstate = .down) : lineRefusal l s = some .deviceDown := if_pos h

theorem inputRefusal_down (h : s.devstate = .down) : inputRefusal l s = some .deviceDown := if_pos h

theorem lineRefusal_outOfRange (h : s.devstate = .up) (hl : s.params.noutN + s.params.ninN ≤ l) :
    lineRefusal l s = some .lineOutOfRange := by
  simp [lineRefusal, h, hl]

theorem inputRefusal_outOfRange (h : s.devstate = .up) (hl : s.params.noutN + s.params.ninN ≤ l) :
    inputRefusal l s = some .lineOutOfRange := by
  simp [inputRefusal, h, hl]

theorem inputRefusal_outputLine (h : s.devstate = .up) (hl : l < s.params.noutN) : inputRefusal l s = some .outputLine := by
  have hlt : l < s.params.noutN + s.params.ninN := by omega
  simp [inputRefusal, h, hl, hlt]

variable {why : Refusal} {i : Instr}

/-- A line operation is refused for the reason its line gives (R155). -/
theorem exec_refused_of_lineRefusal {d : Direction} {v : Bool} (h : lineRefusal l s = some why)
    (hi : i ∈ [Instr.dirget l, .dirset l d, .dirout l v, .get l, .set l v]) : exec i s = .refused why := by
  have hk : ∀ k, unlessRefused (lineRefusal l s) k = .refused why := fun k => by rw [h, unlessRefused]
  simp only [List.mem_cons, List.not_mem_nil, or_false] at hi
  rcases hi with rfl | rfl | rfl | rfl | rfl
  · exact hk _
  · exact hk _
  · exact hk _
  · exact hk _
  · exact hk _

/-- An interrupt-chip operation is refused for the reason its line gives (R165). -/
theorem exec_refused_of_inputRefusal {t : BitVec 4} (h : inputRefusal l s = some why)
    (hi : i ∈ [Instr.settype l t, .mask l, .unmask l, .ack l]) : exec i s = .refused why := by
  have hk : ∀ k, unlessRefused (inputRefusal l s) k = .refused why := fun k => by rw [h, unlessRefused]
  simp only [List.mem_cons, List.not_mem_nil, or_false] at hi
  rcases hi with rfl | rfl | rfl | rfl
  · exact hk _
  · exact hk _
  · exact hk _
  · exact hk _

end

/-! ### A lost update -/

/-- Two contexts, each to SET an output of bank 0. The turns set context 0 aside between its read and its write, and let it write between
the read and the write of context 1 (R236). -/
def racingSets : State :=
  { State.resetWith Params.scenario ResetDraw.zero with
    devstate := .up
    ctxs := [⟨[.issue (encode (.set 1 true))], []⟩, ⟨[.issue (encode (.set 2 true))], []⟩]
    agenda := [.ctx 0, .ctx 1], turns := [.ctx 0, .preempt, .ctx 1, .ctx 0] }

/-- After its first step: context 0 has read the byte and not yet written it. -/
def racingSetsRead : State :=
  { racingSets with
    ctxs := [⟨[], [⟨0, [.write (.bank .wdata 0) (.setBit 1 true)], .ok, false⟩]⟩, ⟨[.issue (encode (.set 2 true))], []⟩]
    agenda := [.ctx 1], turns := [.ctx 1, .ctx 0]
    trace := [.read 0 (.bank .wdata 0) 0x00] }

/-- After its second step: context 1 has written over what context 0 wrote. -/
def racingSetsWritten : State :=
  { racingSets with
    wdata := putEntry ResetDraw.zero.wdata 0 0x04
    ctxs := [⟨[], []⟩, ⟨[], []⟩], cur := 1, agenda := [], turns := []
    trace := [.read 0 (.bank .wdata 0) 0x00, .read 1 (.bank .wdata 0) 0x00, .write 0 (.bank .wdata 0) 0x02, .done 0 .ok,
      .write 1 (.bank .wdata 0) 0x04, .done 1 .ok] }

theorem racingSets_sound : racingSets.Sound := by
  have hstack : ∀ c, (ctxAt racingSets c).stack = [] := by
    intro c
    match c with
    | 0 => rfl
    | 1 => rfl
    | c + 2 => rfl
  refine ⟨rfl, fun _ => rfl, fun c f hf => ?_, fun c => ?_⟩
  · rw [hstack] at hf
    cases hf
  · rw [lockHolders, hstack]
    rfl

end Sys2Proof.Machine

namespace Sys2Proof.Proofs

open Sys2Proof.Machine

/-- Settles O34: the read-modify-write at the line's coordinates. -/
theorem setAndDiroutDriveOneBit : Obligations.SetAndDiroutDriveOneBit := by
  intro s o v i hq hup hout h64 hi
  exact ⟨drivenByte o v s, (exec_drive_output v hup hout hi).trans (start_setSteps v hq (by omega)),
    fun j hj => getLsbD_drivenByte o v s hj⟩

/-- Settles O37: GET reads the byte SET wrote. -/
theorem setThenGetGivesTheLevel : Obligations.SetThenGetGivesTheLevel := by
  intro s o v hq hup hout h64
  have ho : o < 64 := by omega
  have hset : exec (.set o v) s = .next (afterSet o v s) :=
    (exec_drive_output v hup hout (by simp)).trans (start_setSteps v hq ho)
  have hget : exec (.get o) (afterSet o v s) = start [.read (.bank .wdata (bankOf o))] (.bit (bitOf o)) (afterSet o v s) :=
    exec_get_output (s := afterSet o v s) hup (Nat.lt_add_right _ hout) hout
  have hlevel : (entry (afterSet o v s).wdata (bankOf o)).getLsbD (bitOf o) = v :=
    (outPin_afterSet v ho o).trans (if_pos rfl)
  refine ⟨afterSet o v s, _, (entry (afterSet o v s).wdata (bankOf o)).setWidth 16, hset,
    hget.trans (start_read_bit hq (bankOf_lt_eight_iff.mpr ho) (bitOf_lt_eight o) rfl), ?_⟩
  rw [hlevel]
  rfl

/-- Settles O38: the output levels after SET. -/
theorem setLeavesOtherOutputsAlone : Obligations.SetLeavesOtherOutputsAlone := by
  intro s t o v hq hup hout h64 hexec p _
  have ho : o < 64 := by omega
  have hset : exec (.set o v) s = .next (afterSet o v s) :=
    (exec_drive_output v hup hout (by simp)).trans (start_setSteps v hq ho)
  obtain rfl : afterSet o v s = t := Host.Outcome.next.inj (hset.symm.trans hexec)
  exact outPin_afterSet v ho p

/-- Settles O35: the error is raised before any step. -/
theorem drivingAnInputLineIsRejected : Obligations.DrivingAnInputLineIsRejected := fun s _ v _ hup hge hlt hi =>
  (exec_drive_input v hup hge hlt hi).trans (raise_eq _ s)

/-- Settles O31: each group of operations checks the device and the line first. -/
theorem meaninglessRequestsAreRefused : Obligations.MeaninglessRequestsAreRefused := by
  intro s o d v t lineOps chipOps
  refine ⟨fun hdown i hi => ?_, fun hup ho i hi => ?_, fun hup ho i hi => ?_⟩
  · rcases List.mem_append.mp hi with hi | hi
    · rcases List.mem_cons.mp hi with rfl | hi
      · rw [exec, execDispatch, downRefusal, if_pos hdown, unlessRefused]
      · exact exec_refused_of_lineRefusal (lineRefusal_down hdown) hi
    · exact exec_refused_of_inputRefusal (inputRefusal_down hdown) hi
  · rcases List.mem_append.mp hi with hi | hi
    · exact exec_refused_of_lineRefusal (lineRefusal_outOfRange hup ho) hi
    · exact exec_refused_of_inputRefusal (inputRefusal_outOfRange hup ho) hi
  · exact exec_refused_of_inputRefusal (inputRefusal_outputLine hup ho) hi

/-- Settles O39: the run of `racingSets`, step by step. -/
theorem interleavedSetsCanLoseAnUpdate : Obligations.InterleavedSetsCanLoseAnUpdate :=
  ⟨racingSets, racingSetsRead, racingSetsWritten, racingSets_sound, rfl, rfl, rfl, rfl, rfl, by decide, by decide,
    by decide, by decide⟩

end Sys2Proof.Proofs
end

section
/-! PROOF. How a request comes to run: a context that issues a word, a word placed for the next step, and the parent interrupt (60_exceptions.md
R212, 45_dispatcher.md R185, R189). -/

namespace Sys2Proof.Machine

theorem issue_of_decode {w : HostWord} {i : Instr} (h : decode w = .ok i) (s : State) : issue w s = exec i s := by
  simp only [issue, h]

theorem busy_congr {s t : State} {c : Nat} (h : (ctxAt t c).stack = (ctxAt s c).stack) : busy c t = busy c s := by
  rw [busy, busy, h]

/-- What a context does next, replaced and put back. -/
theorem setRequests_setRequests (c : Nat) (q : List Request) (s : State) :
    setRequests c (ctxAt s c).requests (setRequests c q s) = s := by
  have hctxs : (setRequests c (ctxAt s c).requests (setRequests c q s)).ctxs = s.ctxs := by
    by_cases hc : c < s.ctxs.length
    · have hset : s.ctxs.set c ⟨s.ctxs[c].requests, s.ctxs[c].stack⟩ = s.ctxs := List.set_getElem_self hc
      simpa [ctxAt, hc] using hset
    · simp [List.set_eq_of_length_le (Nat.not_lt.mp hc)]
  calc
    _ = { s with ctxs := (setRequests c (ctxAt s c).requests (setRequests c q s)).ctxs } := rfl
    _ = { s with ctxs := s.ctxs } := by rw [hctxs]

/-- The current context is about to issue a word that was placed for it (entry 15). -/
theorem aboutToIssue_presentWord {s : State} (w : HostWord) (hfault : s.fault = []) (hcur : s.cur < s.ctxs.length)
    (hfree : busy s.cur s = false) : AboutToIssue (presentWord w s) s.cur w (ctxAt s s.cur).requests s.agenda where
  noFault := hfault
  turn := .inr rfl
  request := by simp [presentWord, ctxAt, hcur]
  free := (busy_congr (stack_setRequests s.cur s.cur _ s)).trans hfree

/-- When that word is run the state is the one it was placed in. -/
theorem begun_presentWord (w : HostWord) (s : State) :
    begun (presentWord w s) s.cur (ctxAt s s.cur).requests s.agenda = s :=
  setRequests_setRequests s.cur _ s

/-- A step with no agenda is a step of the current context (entry 5). -/
theorem step_eq_act {s : State} (hfault : s.fault = []) (hagenda : s.agenda = []) : step s = act s.cur s := by
  rw [step, serve, if_neg (not_not_intro hfault), hagenda]

/-- A context asked to take the parent interrupt (R212). -/
theorem act_interrupt {s : State} {c : Nat} {q : List Request} (h : (ctxAt s c).requests = .interrupt :: q) :
    act c s = interruptEntry c q s := by
  rw [act, h]

end Sys2Proof.Machine

namespace Sys2Proof.Proofs

open Sys2Proof.Machine

/-- Settles O7: the step issues the word, which decodes. -/
theorem stepRunsTheDecodedInstruction : Obligations.StepRunsTheDecodedInstruction := fun _ _ _ _ _ _ hissue hdecode =>
  hissue.step_eq_issue.trans (issue_of_decode hdecode _)

/-- Settles O8: the current context is about to issue the placed word, and then the state is the one it was placed in. -/
theorem placedWordRunsNext : Obligations.PlacedWordRunsNext := by
  intro s nbits w i hfault hcur hfree hdecode
  unfold decodeTableWord at hdecode
  unfold State.withFetchWord
  split at hdecode
  · cases hdecode
  next hw hword =>
    split at hdecode
    case h_2 => cases hdecode
    next i' hi =>
      obtain rfl : i' = i := Option.some.inj hdecode
      rw [hword]
      dsimp only
      rw [(aboutToIssue_presentWord hw hfault hcur hfree).step_eq_issue, begun_presentWord, issue_of_decode hi]

/-- Settles O56: the three cases of `interruptEntry`. -/
theorem interruptEntryIsADispatch : Obligations.InterruptEntryIsADispatch := by
  intro s q hfault hagenda hreq
  have hstep : step s = interruptEntry s.cur q s := (step_eq_act hfault hagenda).trans (act_interrupt hreq)
  refine ⟨fun hlock hirq => ?_, fun hlock hirq => ?_, fun hlock => ?_⟩
  · rw [hstep, interruptEntry, if_neg hlock, if_pos hirq]
  · rw [hstep, interruptEntry, if_neg hlock, if_neg (by simp [hirq])]
  · rw [hstep, interruptEntry, if_pos hlock]

end Sys2Proof.Proofs
end

section
/-! PROOF. The Interrupt Chip of 44_interrupt_chip.md, continued: the slots of a word (R75), and the undisturbed runs of SETTYPE, MASK, UNMASK
and ACK (R167 to R174). -/

namespace Sys2Proof.Machine

/-! ### Slots -/

theorem slotGet_zero (j : Nat) : slotGet 0 j = 0 := by
  simp [slotGet]

/-- Restoring a slot twice is restoring it once (R174). -/
theorem restoreSlotValue_idem (m : UnmaskMerge) (w : Half) {k : Nat} (c : Code) (hk : k < 8) :
    restoreSlotValue m (restoreSlotValue m w k c) k c = restoreSlotValue m w k c := by
  refine half_ext_slots fun j hj => ?_
  rw [slotGet_restoreSlotValue m _ k j c hk hj, slotGet_restoreSlotValue m w k j c hk hj]
  by_cases h : j = k
  · cases m <;> simp [h, BitVec.or_assoc]
  · simp [h]

/-! ### Locked operations, undisturbed -/

/-- A locked body runs from its first step when the lock is free (R61). -/
theorem start_locked {s : State} {body : List Micro} (hq : s.quiet) (hfree : s.lock = .free) :
    start (locked body) .ok s = .next (runOp s.cur .ok (body ++ [.release]) 0 { s with lock := .held s.cur }) := by
  rw [start, locked, List.cons_append, runOp_acquire _ _ _ _ _ hq hfree]

/-- The bracket's two `CTRL` writes depend on `CTRL`, the parameters and the free values alone. -/
theorem BracketCtrl.congr {s t : State} {r₁ c₁ r₂ c₂ : Byte} {n : Nat} (h : BracketCtrl t r₁ c₁ r₂ c₂ n)
    (hp : t.params = s.params) (hc : t.ctrl = s.ctrl) (hd : t.draws = s.draws) : BracketCtrl s r₁ c₁ r₂ c₂ n := by
  obtain ⟨h₁, h₂, h₃, h₄, h₅, h₆, h₇, h₈, h₉⟩ := h
  rw [hp] at h₃ h₄ h₉
  rw [hc] at h₇ h₉
  rw [hd] at h₉
  exact ⟨h₁, h₂, h₃, h₄, h₅, h₆, h₇, h₈, h₉⟩

/-- The value that clears one status bit, as a byte (R76). -/
theorem clearWritten_bitMask (sts : Byte) (k : Nat) :
    clearWritten sts (((bitMask k).setWidth 16).setWidth 8) = sts &&& ~~~((1 : Byte) <<< k) := by
  rw [setWidth_byte, clearWritten, bitMask]

/-- The undisturbed write that clears one status bit (R172). -/
theorem runOp_clearStatus (c : Nat) (ret : Return) {b : Nat} (k : Nat) (rest : List Micro) (latch : Half) (s : State)
    (hq : s.turns = []) (hb : b < 8) :
    runOp c ret (clearStatus b k :: rest) latch s = runOp c ret rest latch { s with
      evsts := putEntry s.evsts b (entry s.evsts b &&& ~~~((1 : Byte) <<< k))
      trace := s.trace ++ [.write c (.bank .evsts b) (((1 : Byte) <<< k).setWidth 16)] } := by
  rw [clearStatus, runOp_write _ _ _ _ _ _ _ hq (regOffset_bank .evsts b hb), ← clearWritten_bitMask]
  rfl

/-- A bracket and the clearing of a status bit, inside the lock: what MASK and UNMASK run (R170, R171). -/
theorem start_bracketed_clearStatus {s : State} {b : Nat} (k : Nat) (u : Update) (hq : s.quiet) (hfree : s.lock = .free)
    (hb : b < 8) :
    ∃ (r₁ c₁ r₂ c₂ : Byte) (n : Nat), BracketCtrl s r₁ c₁ r₂ c₂ n ∧
      start (locked (bracketed b u ++ [clearStatus b k])) .ok s =
        let w := entry s.evcfg b
        let w' := u.eval w s
        let bit := (1 : Byte) <<< k
        .next { s with
          evcfg := putEntry s.evcfg b w', evsts := putEntry s.evsts b (entry s.evsts b &&& ~~~bit)
          ctrl := c₂, draws := n
          trace := s.trace ++ [.read s.cur .ctrl (r₁.setWidth 16), .write s.cur .ctrl (c₁.setWidth 16),
            .read s.cur (.bank .evcfg b) w, .write s.cur (.bank .evcfg b) w',
            .read s.cur .ctrl (r₂.setWidth 16), .write s.cur .ctrl (c₂.setWidth 16),
            .write s.cur (.bank .evsts b) (bit.setWidth 16), .done s.cur .ok] } := by
  obtain ⟨r₁, c₁, r₂, c₂, n, hctrl, latch, hrun⟩ :=
    runOp_bracketed s.cur .ok b u [clearStatus b k, .release] 0 { s with lock := .held s.cur } hq hb
  refine ⟨r₁, c₁, r₂, c₂, n, hctrl.congr rfl rfl rfl, ?_⟩
  rw [start_locked hq hfree, List.append_assoc, List.cons_append, List.nil_append, hrun]
  dsimp only
  rw [runOp_clearStatus _ _ _ _ _ _ (by exact hq) hb, runOp_release _ _ _ _ _ (by exact hq), runOp_nil]
  simp only [finish, emit, List.append_assoc, List.cons_append, List.nil_append]
  rw [← hfree]
  cases u <;> rfl

/-! ### Interrupt-chip operations on an input line -/

section
variable {s : State} {l : Nat} (hup : s.devstate = .up) (hge : s.params.noutN ≤ l) (hlt : l < s.params.noutN + s.params.ninN)
include hup hge hlt

/-- SETTYPE of a supported type (R167). -/
theorem exec_settype {t : BitVec 4} {c : Code} {st : Strategy} (ht : triggerOf t = some (c, st)) :
    exec (.settype l t) s = start (settypeSteps (rel s.params l) c st) .ok s := by
  rw [exec, execSettype, unlessRefused_inputRefusal hup hge hlt, ht]

theorem exec_mask : exec (.mask l) s = start (maskSteps (rel s.params l)) .ok s :=
  unlessRefused_inputRefusal hup hge hlt _

theorem exec_unmask : exec (.unmask l) s = start (unmaskSteps (rel s.params l)) .ok s :=
  unlessRefused_inputRefusal hup hge hlt _

theorem exec_ack : exec (.ack l) s = start (ackSteps (rel s.params l)) .ok s :=
  unlessRefused_inputRefusal hup hge hlt _

omit hup in
/-- An input line's position, with at most 64 input lines, is in one of the eight banks (R123, R124). -/
theorem bankOf_rel_lt (h64 : s.params.ninN ≤ 64) : bankOf (rel s.params l) < 8 := by
  rw [bankOf_lt_eight_iff, rel]
  omega

end

end Sys2Proof.Machine

namespace Sys2Proof.Proofs

open Sys2Proof.Machine

/-- Settles O41: a word with one slot placed is the zero word with it ORed in. -/
theorem slotsAreIndependent : Obligations.SlotsAreIndependent := by
  intro w k j c hk hj
  have hor (w : Half) : slotGet (w ||| slotIns c k) j = if j = k then slotGet w j ||| c else slotGet w j :=
    slotGet_orSlotValue w k j c hj
  refine ⟨?_, hor w, slotGet_clearSlotValue w k j hk hj⟩
  have h := hor 0
  rwa [slotGet_zero, show (0 : Half) ||| slotIns c k = slotIns c k from BitVec.zero_or, show 0 ||| c = c from BitVec.zero_or] at h

/-- Settles O43: the shadow state, then the bracket, inside the lock. -/
theorem settypeMergesTheCode : Obligations.SettypeMergesTheCode := by
  intro s l t c st hq hup hfree hge hlt h64 ht i w w'
  have hb : bankOf i < 8 := bankOf_rel_lt hge hlt h64
  let u : State := { s with
    lock := .held s.cur, trigType := putEntry s.trigType i c, strat := putEntry s.strat i st }
  obtain ⟨r₁, c₁, r₂, c₂, n, hctrl, latch, hrun⟩ :=
    runOp_bracketed s.cur .ok (bankOf i) (.orSlot (bitOf i) c) [.release] 0 u hq hb
  refine ⟨r₁, c₁, r₂, c₂, n, hctrl.congr rfl rfl rfl, ?_⟩
  rw [exec_settype hup hge hlt ht, settypeSteps, start_locked hq hfree, List.append_assoc, List.cons_append, List.cons_append,
    List.nil_append, runOp_setType _ _ _ _ _ _ _ (by exact hq), runOp_setStrat _ _ _ _ _ _ _ (by exact hq)]
  change Host.Outcome.next (runOp s.cur .ok (bracketed (bankOf i) (.orSlot (bitOf i) c) ++ [.release]) 0 u) = _
  rw [hrun]
  dsimp only
  rw [runOp_release _ _ _ _ _ (by exact hq), runOp_nil]
  simp only [finish, emit, List.append_assoc, List.cons_append, List.nil_append]
  rw [← hfree]
  rfl

/-- Settles O44: the bracket clears the slot. -/
theorem maskClearsSlotAndStatus : Obligations.MaskClearsSlotAndStatus := by
  intro s l hq hup hfree hge hlt h64 i w w' bit
  obtain ⟨r₁, c₁, r₂, c₂, n, hctrl, hrun⟩ :=
    start_bracketed_clearStatus (bitOf i) (.clearSlot (bitOf i)) hq hfree (bankOf_rel_lt hge hlt h64)
  exact ⟨r₁, c₁, r₂, c₂, n, hctrl, (exec_mask hup hge hlt).trans hrun⟩

/-- Settles O45: the bracket restores the slot from `TYPE`. -/
theorem unmaskRestoresSlotAndClearsStatus : Obligations.UnmaskRestoresSlotAndClearsStatus := by
  intro s l hq hup hfree hge hlt h64 i w kept w' bit
  obtain ⟨r₁, c₁, r₂, c₂, n, hctrl, hrun⟩ :=
    start_bracketed_clearStatus (bitOf i) (.restoreSlot (bitOf i) i) hq hfree (bankOf_rel_lt hge hlt h64)
  have hw : Update.eval (.restoreSlot (bitOf i) i) w s = w' := by
    simp only [Update.eval, w', kept]
    cases s.params.unmaskMerge <;> rfl
  refine ⟨r₁, c₁, r₂, c₂, n, hctrl, (exec_unmask hup hge hlt).trans ?_⟩
  rw [← hw]
  exact hrun

/-- Settles O46: one write inside the lock. -/
theorem ackClearsOneStatusBit : Obligations.AckClearsOneStatusBit := by
  intro s l hq hup hfree hge hlt h64 i bit
  have hb : bankOf (rel s.params l) < 8 := bankOf_rel_lt hge hlt h64
  rw [exec_ack hup hge hlt, ackSteps, start_locked hq hfree, List.cons_append, List.nil_append,
    runOp_clearStatus _ _ _ _ _ _ (by exact hq) hb, runOp_release _ _ _ _ _ (by exact hq), runOp_nil]
  simp only [finish, emit, List.append_assoc, List.cons_append, List.nil_append]
  rw [← hfree]
  rfl

/-- Settles O47: the slot MASK leaves is zero, and restoring a slot twice is restoring it once. -/
theorem maskAndUnmaskAreIdempotent : Obligations.MaskAndUnmaskAreIdempotent := by
  intro s l hq hup hfree hge hlt h64
  let i := rel s.params l
  have hb : bankOf i < 8 := bankOf_rel_lt hge hlt h64
  refine ⟨?_, ?_⟩
  · obtain ⟨_, _, _, _, _, -, hrun⟩ := start_bracketed_clearStatus (bitOf i) (.clearSlot (bitOf i)) hq hfree hb
    refine ⟨_, (exec_mask hup hge hlt).trans hrun, decide_eq_true ?_⟩
    change slotGet (entry (putEntry s.evcfg (bankOf i) (clearSlotValue _ (bitOf i))) (bankOf i)) (bitOf i) = 0
    rw [entry_putEntry_same _ _ _ hb, slotGet_clearSlotValue _ _ _ (bitOf_lt_eight i) (bitOf_lt_eight i), if_pos rfl]
  · obtain ⟨_, _, _, _, _, -, hfirst⟩ := start_bracketed_clearStatus (bitOf i) (.restoreSlot (bitOf i) i) hq hfree hb
    obtain ⟨t, ht⟩ : ∃ t, t = _ := ⟨_, rfl⟩
    have hexec := (exec_unmask hup hge hlt).trans (hfirst.trans (congrArg Host.Outcome.next ht.symm))
    have htq : t.quiet := by rw [ht]; exact hq
    have htfree : t.lock = .free := by rw [ht]; exact hfree
    obtain ⟨_, _, _, _, _, -, hsecond⟩ := start_bracketed_clearStatus (bitOf i) (.restoreSlot (bitOf i) i) htq htfree hb
    have hexec' : exec (.unmask l) t = start (unmaskSteps i) .ok t := by
      subst ht
      exact exec_unmask hup hge hlt
    refine ⟨t, _, hexec, hexec'.trans hsecond, ?_⟩
    have hevcfg : t.evcfg = putEntry s.evcfg (bankOf i)
        (restoreSlotValue s.params.unmaskMerge (entry s.evcfg (bankOf i)) (bitOf i) (entry s.trigType i)) := by
      rw [ht]
      rfl
    have hparams : t.params = s.params := by rw [ht]
    have htype : t.trigType = s.trigType := by rw [ht]
    change putEntry t.evcfg (bankOf i)
      (restoreSlotValue t.params.unmaskMerge (entry t.evcfg (bankOf i)) (bitOf i) (entry t.trigType i)) = t.evcfg
    rw [hparams, htype, hevcfg, entry_putEntry_same _ _ _ hb, restoreSlotValue_idem _ _ _ (bitOf_lt_eight i), putEntry_putEntry]

end Sys2Proof.Proofs
end

section
/-! PROOF. The sampler of 45_dispatcher.md (R185, R190, R191, R194) and the parent interrupt line (10_state.md R34). -/

namespace Sys2Proof.Machine

/-! ### Status bits after a sampler step -/

/-- Which positions latch: a rise with slot bit 0 set, or a fall with slot bit 1 set (R23, R190). -/
theorem latches_iff (cfg : Half) (k : Nat) (old new : Bool) :
    latches (slotGet cfg k) old new = true ↔
      (old = false ∧ new = true ∧ cfg.getLsbD (2 * k) = true) ∨ (old = true ∧ new = false ∧ cfg.getLsbD (2 * k + 1) = true) := by
  rw [latches, getLsbD_slotGet cfg k 0 (by decide), getLsbD_slotGet cfg k 1 (by decide), Nat.add_zero]
  cases old <;> cases new <;> simp

section
variable {s : State} {inp : Lines} {b k : Nat} (hb : b < 8) (hk : k < 8)
include hb

/-- A bank's status byte after a step of the sampler of R190. -/
theorem entry_sampleExact_evsts : entry (sampleExact inp s).evsts b =
    latchByte (entry s.evcfg b) (entry s.rdata b) (byteOfLines inp b) (entry s.evsts b) :=
  entry_perBank _ b hb

include hk

/-- A status bit after a step of the sampler of R190. -/
theorem getLsbD_sampleExact_evsts : (entry (sampleExact inp s).evsts b).getLsbD k =
    ((entry s.evsts b).getLsbD k ||
      latches (slotGet (entry s.evcfg b) k) ((entry s.rdata b).getLsbD k) (inp.getLsbD (8 * b + k))) := by
  rw [entry_sampleExact_evsts hb, getLsbD_latchByte _ _ _ _ k hk, getLsbD_byteOfLines inp b k hk]

/-- A status bit after a step of the weaker sampler: set only where the slot is not `0b00` (R194). -/
theorem getLsbD_sampleWeaker_evsts : (entry (sampleWeaker s).evsts b).getLsbD k =
    ((entry s.evsts b).getLsbD k ||
      ((byteOfLines (Config.freeLatch s.draws) b).getLsbD k && decide (slotGet (entry s.evcfg b) k ≠ 0))) := by
  rw [sampleWeaker_evsts, entry_perBank _ b hb, BitVec.getLsbD_or, BitVec.getLsbD_and, getLsbD_unmaskedBits _ k hk]

end

/-- A sampler step is none, one of the sampler of R190, or one of the weaker sampler (R190, R194). -/
theorem sample_cases (inp : Lines) (s : State) :
    sample inp s = s ∨ sample inp s = sampleExact inp s ∨ sample inp s = sampleWeaker s := by
  unfold sample
  split
  · split
    · exact .inr (.inl rfl)
    · exact .inr (.inr rfl)
  · exact .inl rfl

/-- Status bits after a sampler step: those it had, and new ones only where the slot is not `0b00` (R191). -/
theorem pending_sample {s : State} (inp : Lines) {p : Nat} (hp : p < 64) :
    (pending s p = true → pending (sample inp s) p = true) ∧ (slotAt s p = 0 → pending (sample inp s) p = pending s p) := by
  have hb : bankOf p < 8 := bankOf_lt_eight_iff.mpr hp
  have hk : bitOf p < 8 := bitOf_lt_eight p
  rcases sample_cases inp s with h | h | h <;> rw [h]
  · exact ⟨id, fun _ => rfl⟩
  · rw [pending, pending, getLsbD_sampleExact_evsts hb hk]
    refine ⟨fun hset => by rw [hset, Bool.true_or], fun hslot => ?_⟩
    rw [slotAt] at hslot
    rw [hslot, latches_zero, Bool.or_false]
  · rw [pending, pending, getLsbD_sampleWeaker_evsts hb hk]
    refine ⟨fun hset => by rw [hset, Bool.true_or], fun hslot => ?_⟩
    rw [slotAt] at hslot
    simp [hslot]

/-- A sampler step changes `RDATA`, `EVSTS` and the free values used, and nothing else. -/
theorem sample_frame (inp : Lines) (s : State) :
    ∃ (rd st : Vector Byte 8) (n : Nat), sample inp s = { s with rdata := rd, evsts := st, draws := n } := by
  rcases sample_cases inp s with h | h | h
  · exact ⟨s.rdata, s.evsts, s.draws, h⟩
  · exact ⟨_, _, s.draws, h⟩
  · exact ⟨_, _, _, h⟩

/-- Some bit of a byte that is not zero is set. -/
theorem byte_ne_zero_iff (v : Byte) : v ≠ 0 ↔ ∃ k, k < 8 ∧ v.getLsbD k = true := by
  refine ⟨fun hne => ?_, ?_⟩
  · by_contra hno
    refine hne (BitVec.eq_of_getLsbD_eq fun k hk => ?_)
    have h : ¬ v.getLsbD k = true := fun hset => hno ⟨k, hk, hset⟩
    simpa using h
  · rintro ⟨k, -, hk⟩ rfl
    simp at hk

/-- `IRQ` is 1 exactly when some bank's status byte is not zero (R34). -/
theorem irq_iff (s : State) : irq s = true ↔ ∃ b, b < 8 ∧ entry s.evsts b ≠ 0 := by
  simp only [irq, List.any_eq_true, decide_eq_true_eq, Vector.mem_toList_iff, Vector.mem_iff_getElem]
  constructor
  · rintro ⟨_, ⟨b, hb, rfl⟩, hne⟩
    exact ⟨b, hb, by simpa [entry, hb] using hne⟩
  · rintro ⟨b, hb, hne⟩
    exact ⟨s.evsts[b], ⟨b, hb, rfl⟩, by simpa [entry, hb] using hne⟩

end Sys2Proof.Machine

namespace Sys2Proof.Proofs

open Sys2Proof.Machine

/-- Settles O53: in periodic mode the sampler in force is that of R190. -/
theorem samplerLatchesSelectedTransitions : Obligations.SamplerLatchesSelectedTransitions := by
  intro s inp henabled hmode hexact
  have hforce : samplerInForce s = .exact := (if_pos hmode).trans hexact
  have hsample : sample inp s = sampleExact inp s := by
    rw [sample, if_pos (show samplerEnabled s = true from henabled), hforce]
  refine ⟨_, _, hsample, fun b k hb hk => ⟨?_, ?_⟩⟩
  · rw [entry_perBank _ b hb, getLsbD_byteOfLines inp b k hk]
  · rw [← latches_iff, ← Bool.or_eq_true]
    exact Bool.eq_iff_iff.mp (getLsbD_sampleExact_evsts (inp := inp) hb hk)

/-- Settles O54: the sampler's turn, its enable bit, its frame, and its status bits. -/
theorem everySamplerKeepsItsBounds : Obligations.EverySamplerKeepsItsBounds := by
  refine fun s inp => ⟨fun q hfault hagenda => ?_, fun hoff => ?_, sample_frame inp s, fun p hp => pending_sample inp hp⟩
  · rw [step, serve, if_neg (not_not_intro hfault), hagenda]
  · rw [sample, show samplerEnabled s = false from hoff]
    rfl

/-- Settles O55: a byte is not zero when some bit of it is set, and positions are banks and bits. -/
theorem parentInterruptIsTheOrOfStatus : Obligations.ParentInterruptIsTheOrOfStatus := by
  intro s
  rw [irq_iff]
  constructor
  · rintro ⟨b, hb, hne⟩
    obtain ⟨k, hk, hset⟩ := (byte_ne_zero_iff _).mp hne
    refine ⟨8 * b + k, by omega, ?_⟩
    rwa [pending, bankOf_eight_mul_add b hk, bitOf_eight_mul_add b hk]
  · rintro ⟨p, hp, hset⟩
    exact ⟨bankOf p, bankOf_lt_eight_iff.mpr hp, (byte_ne_zero_iff _).mpr ⟨bitOf p, bitOf_lt_eight p, hset⟩⟩

end Sys2Proof.Proofs
end

section
/-! PROOF. DISPATCH (45_dispatcher.md R186 to R193): an empty pass, the first delivery of a pass, and a whole pass whose handlers return at
once. -/

namespace Sys2Proof.Machine

/-! ### Banks and bits with nothing pending -/

/-- Bits of the snapshot that are 0 are passed (R186). -/
theorem runOp_scans_clear (c : Nat) (ret : Return) (b : Nat) (ks : List Nat) (rest : List Micro) (latch : Half) (s : State)
    (hq : s.turns = []) (hclear : ∀ k ∈ ks, latch.getLsbD k = false) :
    runOp c ret (ks.map (fun k => .scan b k) ++ rest) latch s = runOp c ret rest latch s := by
  induction ks with
  | nil => rfl
  | cons k ks ih =>
    have hk : latch.getLsbD k = false := hclear k (by simp)
    rw [List.map_cons, List.cons_append, runOp_scan _ _ _ _ _ _ _ hq, if_neg (by simp [hk]),
      ih fun k' hk' => hclear k' (by simp [hk'])]

/-- The read that begins a bank's scan (R186). -/
theorem runOp_readStatus (c : Nat) (ret : Return) {b : Nat} (rest : List Micro) (latch : Half) (s : State)
    (hq : s.turns = []) (hb : b < 8) :
    runOp c ret (.read (.bank .evsts b) :: rest) latch s =
      runOp c ret rest ((entry s.evsts b).setWidth 16)
        { s with trace := s.trace ++ [.read c (.bank .evsts b) ((entry s.evsts b).setWidth 16)] } :=
  runOp_read c ret _ rest latch s hq (regOffset_bank .evsts b hb)

/-- Banks with nothing pending: one read each (R186, R188). -/
theorem runOp_banks_clear (c : Nat) (ret : Return) (bs : List Nat) (rest : List Micro) (hb : ∀ b ∈ bs, b < 8) :
    ∀ (latch : Half) (s : State), s.turns = [] → (∀ b ∈ bs, entry s.evsts b = 0) →
    ∃ latch', runOp c ret (bs.flatMap scanBank ++ rest) latch s = runOp c ret rest latch'
      { s with trace := s.trace ++ bs.map (fun b => .read c (.bank .evsts b) 0) } := by
  induction bs with
  | nil => exact fun latch s _ _ => ⟨latch, by simp⟩
  | cons b bs ih =>
    intro latch s hq hclear
    have hzero : (entry s.evsts b).setWidth 16 = 0 := by
      rw [hclear b (by simp)]
      rfl
    obtain ⟨latch', hrun⟩ := ih (fun b' hb' => hb b' (by simp [hb'])) 0
      { s with trace := s.trace ++ [.read c (.bank .evsts b) 0] } hq fun b' hb' => hclear b' (by simp [hb'])
    refine ⟨latch', ?_⟩
    rw [List.flatMap_cons, List.append_assoc, scanBank, List.cons_append, runOp_readStatus _ _ _ _ _ hq (hb b (by simp)), hzero,
      runOp_scans_clear _ _ _ _ _ _ _ (by exact hq) (by simp), hrun]
    simp

theorem exec_dispatch {s : State} (hup : s.devstate = .up) : exec .dispatch s = start dispatchSteps .ok s := by
  rw [exec, execDispatch, (downRefusal_none s).mpr hup, unlessRefused]

/-! ### The first delivery -/

/-- The steps of a pass up to the examination of bit `k` of bank `b`, and from it on (R186). -/
theorem dispatchSteps_split : ∀ b < 8, ∀ k < 8,
    dispatchSteps = (List.range b).flatMap scanBank ++
      .read (.bank .evsts b) :: ((List.range k).map (fun k' => .scan b k') ++ dispatchSteps.drop (9 * b + k + 1)) := by
  decide

theorem dispatchSteps_drop : ∀ b < 8, ∀ k < 8,
    dispatchSteps.drop (9 * b + k + 1) = .scan b k :: dispatchSteps.drop (9 * b + k + 2) := by
  decide

/-! ### A whole pass -/

/-- The outputs of a pass with steps `todo` still to do and snapshot `latch`, whose handlers do nothing. -/
def passEvents (c : Nat) (p : Params) (sts : Vector Byte 8) : List Micro → Half → List Event
  | [], _ => []
  | .read (.bank .evsts b) :: rest, _ =>
    .read c (.bank .evsts b) ((entry sts b).setWidth 16) :: passEvents c p sts rest ((entry sts b).setWidth 16)
  | .scan b k :: rest, latch =>
    if latch.getLsbD k then .deliver c (vline p b k) :: passEvents c p sts rest latch else passEvents c p sts rest latch
  | _ :: rest, latch => passEvents c p sts rest latch

/-- A delivery to the host (R193). -/
def Event.isDeliver : Event → Bool
  | .deliver _ _ => true
  | _ => false

/-- A step of a pass. -/
def Micro.ofPass : Micro → Bool
  | .read (.bank .evsts b) => decide (b < 8)
  | .scan _ _ => true
  | _ => false

/-- The machine's runs, as functions of its states. -/
def runSteps (n : Nat) (s : State) : Answer := Sys2Proof.core.run n s

theorem runSteps_zero (s : State) : runSteps 0 s = .next s := rfl

/-- One step more, of any machine. -/
theorem core_run_succ {M : Host.Core} {s t : M.State} (n : Nat) (h : M.step s = .next t) : M.run (n + 1) s = M.run n t := by
  rw [Host.Core.run, h]

theorem runSteps_succ {s t : State} (n : Nat) (h : step s = .next t) : runSteps (n + 1) s = runSteps n t :=
  core_run_succ (M := Sys2Proof.core) n h

theorem ctxAt_eq {s : State} {c : Nat} {x : Ctx} (h : s.ctxs[c]? = some x) : ctxAt s c = x := by
  rw [ctxAt, h, Option.getD_some]

/-- A step of a context whose line handler returns: its pass goes on after the bit it was examining (R193). -/
theorem step_handlerReturn {s : State} {f : Frame} {q : List Request} {stack : List Frame} (hfault : s.fault = [])
    (hagenda : s.agenda = []) (hctx : s.ctxs[s.cur]? = some ⟨.handlerReturn :: q, f :: stack⟩) (hin : f.inHandler = true) :
    step s = .next (runOp s.cur f.ret f.todo.tail f.latch { s with ctxs := s.ctxs.set s.cur ⟨q, stack⟩ }) := by
  have hat := ctxAt_eq hctx
  obtain ⟨hlt, -⟩ := List.getElem?_eq_some_iff.mp hctx
  have hbusy : busy s.cur s = false := by simp [busy, hat, hin]
  have hstack : (ctxAt (setRequests s.cur q s) s.cur).stack = f :: stack := by rw [stack_setRequests, hat]
  have hstate : setStack s.cur stack (setRequests s.cur q s) = { s with ctxs := s.ctxs.set s.cur ⟨q, stack⟩ } := by
    simp [setStack, setRequests, ctxAt, hlt]
  rw [step_eq_act hfault hagenda, act, hat]
  simp only [hbusy, handlerReturn, hstack, hin, hstate, if_true, Bool.false_eq_true, if_false]

/-- The run of a pass that is at its beginning or whose handler has just returned: one step for each delivery still to come. -/
theorem run_pass {q : List Request} {stack : List Frame} (todo : List Micro) (hpass : todo.all Micro.ofPass = true) :
    ∀ (latch : Half) (s : State) (events : List Event) (n : Nat), s.turns = [] → s.fault = [] → s.agenda = [] →
    passEvents s.cur s.params s.evsts todo latch = events → events.countP Event.isDeliver = n →
    s.ctxs[s.cur]? = some ⟨List.replicate n .handlerReturn ++ q, stack⟩ →
    runSteps n (runOp s.cur .ok todo latch s) = .next { s with
      ctxs := s.ctxs.set s.cur ⟨q, stack⟩
      trace := s.trace ++ events ++ [.done s.cur .ok] } := by
  induction todo with
  | nil =>
    rintro latch s _ _ - - - rfl rfl hctx
    obtain ⟨hlt, hget⟩ := List.getElem?_eq_some_iff.mp hctx
    have hself : s.ctxs.set s.cur ⟨q, stack⟩ = s.ctxs := by
      conv_rhs => rw [← List.set_getElem_self hlt, hget]
      rfl
    rw [hself]
    simp [passEvents, runSteps_zero, finish, emit, Return.eval]
  | cons m rest ih =>
    intro latch s events n hq hfault hagenda hevents hn hctx
    obtain ⟨hm, hrest⟩ := Bool.and_eq_true_iff.mp hpass
    match m, hm with
    | .read (.bank .evsts b), hb =>
      subst hevents
      rw [runOp_readStatus _ _ _ _ _ hq (of_decide_eq_true hb)]
      refine (ih hrest ((entry s.evsts b).setWidth 16)
        { s with trace := s.trace ++ [.read s.cur (.bank .evsts b) ((entry s.evsts b).setWidth 16)] } _ n hq hfault hagenda rfl
        ?_ hctx).trans ?_
      · rw [← hn, passEvents, List.countP_cons_of_neg (by simp [Event.isDeliver])]
      · simp only [passEvents, List.append_assoc, List.cons_append, List.nil_append]
    | .scan b k, _ =>
      rw [runOp_scan _ _ _ _ _ _ _ hq]
      rw [passEvents] at hevents
      split at hevents
      case isFalse hbit =>
        rw [if_neg hbit]
        exact ih hrest latch s events n hq hfault hagenda hevents hn hctx
      case isTrue hbit =>
        subst hevents
        obtain ⟨n, rfl⟩ : ∃ n', n = n' + 1 := ⟨_, hn.symm.trans (List.countP_cons_of_pos rfl)⟩
        rw [List.countP_cons_of_pos rfl, Nat.add_right_cancel_iff] at hn
        obtain ⟨hlt, -⟩ := List.getElem?_eq_some_iff.mp hctx
        have hat : s.ctxs[s.cur] = ⟨.handlerReturn :: (List.replicate n .handlerReturn ++ q), stack⟩ := by
          simpa [List.replicate_succ, hlt] using hctx
        let f : Frame := ⟨latch, .scan b k :: rest, .ok, true⟩
        let t := pushFrame s.cur f (emit (.deliver s.cur (vline s.params b k)) s)
        let u : State := { t with ctxs := t.ctxs.set t.cur ⟨List.replicate n .handlerReturn ++ q, stack⟩ }
        have htctx : t.ctxs[t.cur]? = some ⟨.handlerReturn :: (List.replicate n .handlerReturn ++ q), f :: stack⟩ := by
          simp [t, ctxAt, hat, hlt]
        have huctx : u.ctxs[u.cur]? = some ⟨List.replicate n .handlerReturn ++ q, stack⟩ := by
          simp [u, t, hlt]
        have hstep : step t = .next (runOp s.cur .ok rest latch u) := step_handlerReturn (s := t) hfault hagenda htctx rfl
        rw [if_pos hbit, runSteps_succ n hstep]
        refine (ih hrest latch u _ n hq hfault hagenda rfl hn huctx).trans ?_
        simp [u, t]

/-! ### The outputs of a whole pass -/

section
variable (c : Nat) (p : Params) (sts : Vector Byte 8)

/-- The bits of one bank give a delivery for each one that is set. -/
theorem passEvents_scans (b : Nat) (ks : List Nat) (rest : List Micro) (latch : Half) :
    passEvents c p sts (ks.map (fun k => .scan b k) ++ rest) latch =
      (ks.filter (fun k => latch.getLsbD k)).map (fun k => .deliver c (vline p b k)) ++ passEvents c p sts rest latch := by
  induction ks with
  | nil => rfl
  | cons k ks ih =>
    rw [List.map_cons, List.cons_append, passEvents, ih]
    cases h : latch.getLsbD k <;> simp [h]

/-- The outputs of one bank: its read, and a delivery for each bit that is set (R186, R187). -/
def bankEvents (b : Nat) : List Event :=
  .read c (.bank .evsts b) ((entry sts b).setWidth 16) ::
    ((List.range 8).filter (fun k => (entry sts b).getLsbD k)).map (fun k => .deliver c (vline p b k))

theorem filter_snapshot (v : Byte) :
    (List.range 8).filter (fun k => (v.setWidth 16).getLsbD k) = (List.range 8).filter (fun k => v.getLsbD k) := by
  refine List.filter_congr fun k hk => ?_
  have hk' : k < 16 := by
    have := List.mem_range.mp hk
    omega
  simp [hk']

theorem passEvents_banks (bs : List Nat) (latch : Half) :
    passEvents c p sts (bs.flatMap scanBank) latch = bs.flatMap (bankEvents c p sts) := by
  induction bs generalizing latch with
  | nil => rfl
  | cons b bs ih =>
    rw [List.flatMap_cons, List.flatMap_cons, scanBank, List.cons_append, passEvents, passEvents_scans, ih, filter_snapshot]
    rfl

/-- One delivery for each bit of the bank that is set. -/
theorem countP_bankEvents (b : Nat) :
    (bankEvents c p sts b).countP Event.isDeliver = (List.range 8).countP (fun k => (entry sts b).getLsbD k) := by
  have hall : Event.isDeliver ∘ (fun k => Event.deliver c (vline p b k)) = fun _ => true := rfl
  rw [bankEvents, List.countP_cons_of_neg (by simp [Event.isDeliver]), List.countP_map, hall, List.countP_true,
    List.countP_eq_length_filter]

end

/-- Positions, bank by bank. -/
theorem range_sixtyFour : List.range 64 = (List.range 8).flatMap fun b => (List.range 8).map (fun k => 8 * b + k) := by
  decide

/-- A whole pass delivers as many lines as there are pending positions (R192). -/
theorem countP_passTrace (c : Nat) (s : State) :
    (passEvents c s.params s.evsts dispatchSteps 0).countP Event.isDeliver = pendingCount s := by
  rw [dispatchSteps, passEvents_banks, pendingCount, ← List.countP_eq_length_filter, range_sixtyFour, List.countP_flatMap,
    List.countP_flatMap]
  refine congrArg List.sum (List.map_congr_left fun b _ => ?_)
  rw [Function.comp_apply, Function.comp_apply, countP_bankEvents, List.countP_map]
  refine List.countP_congr fun k hk => ?_
  have hk' : k < 8 := List.mem_range.mp hk
  rw [Function.comp_apply, pending, bankOf_eight_mul_add b hk', bitOf_eight_mul_add b hk']

end Sys2Proof.Machine

namespace Sys2Proof.Proofs

open Sys2Proof.Machine

/-- Settles O50: all eight banks are passed. -/
theorem emptyPassReadsAllBanks : Obligations.EmptyPassReadsAllBanks := by
  intro s hq hup hclear
  obtain ⟨latch, hrun⟩ := runOp_banks_clear s.cur .ok (List.range 8) [] (fun b hb => List.mem_range.mp hb) 0 s hq
    fun b hb => hclear b (List.mem_range.mp hb)
  rw [List.append_nil] at hrun
  rw [exec_dispatch hup, start, dispatchSteps, hrun]
  rfl

/-- Settles O51: the banks and bits before the lowest pending one are passed, and the pass stops at it. -/
theorem passDeliversTheLowestPendingFirst : Obligations.PassDeliversTheLowestPendingFirst := by
  intro s b k hq hup hb hk hbanks hbits hset f
  have hdrop := dispatchSteps_drop b hb k hk
  have hlatch (j : Nat) (hj : j < 8) : ((entry s.evsts b).setWidth 16).getLsbD j = (entry s.evsts b).getLsbD j := by
    have hj' : j < 16 := by omega
    simp [hj']
  refine ⟨?_, ?_, ?_⟩
  · obtain ⟨latch, hrun⟩ := runOp_banks_clear s.cur .ok (List.range b)
      (.read (.bank .evsts b) :: ((List.range k).map (fun k' => .scan b k') ++ dispatchSteps.drop (9 * b + k + 1)))
      (fun b' hb' => by have := List.mem_range.mp hb'; omega) 0 s hq fun b' hb' => hbanks b' (List.mem_range.mp hb')
    have hclear : ∀ k' ∈ List.range k, ((entry s.evsts b).setWidth 16).getLsbD k' = false := by
      intro k' hk'
      have hlt := List.mem_range.mp hk'
      rw [hlatch k' (by omega), hbits k' hlt]
    rw [← dispatchSteps_split b hb k hk] at hrun
    rw [exec_dispatch hup, start, hrun, runOp_readStatus _ _ _ _ _ (by exact hq) hb,
      runOp_scans_clear _ _ _ _ _ _ _ (by exact hq) hclear]
    simp only [f]
    rw [hdrop, runOp_scan _ _ _ _ _ _ _ (by exact hq), if_pos (by rw [hlatch k hk, hset])]
    simp only [emit, List.append_assoc, List.cons_append, List.nil_append]
    rfl
  · simp only [Frame.scanPosition, f, hdrop]
  · simp only [Frame.snapshot, f, hdrop, setWidth_byte]

/-- Settles O52: the step that issues DISPATCH begins the pass, and `run_pass` is the rest. -/
theorem passDeliversEveryPendingLineInOrder : Obligations.PassDeliversEveryPendingLineInOrder := by
  intro s q stack hq hfault hagenda hup hfree hctx
  obtain ⟨hlt, -⟩ := List.getElem?_eq_some_iff.mp hctx
  have hat := ctxAt_eq hctx
  have hcount := countP_passTrace s.cur s
  let r := List.replicate (pendingCount s) Request.handlerReturn ++ q
  let t : State := { s with ctxs := s.ctxs.set s.cur ⟨r, stack⟩ }
  have hissue : AboutToIssue s s.cur (.opw 0xD000) r [] := ⟨hfault, .inl ⟨hagenda, rfl, rfl⟩, by rw [hat], hfree⟩
  have hbegun : begun s s.cur r [] = t := by simp [begun, setRequests, ctxAt, hctx, t, ← hagenda]
  have hstep : step s = .next (runOp t.cur .ok dispatchSteps 0 t) := by
    rw [hissue.step_eq_issue, issue_of_decode (i := .dispatch) rfl, hbegun, exec_dispatch (by exact hup), start]
  have htctx : t.ctxs[t.cur]? = some ⟨r, stack⟩ := by simp [t, hlt]
  have hevents : passEvents t.cur t.params t.evsts dispatchSteps 0 = passTrace s.cur s := passEvents_banks _ _ _ _ _
  have hrun := run_pass dispatchSteps (by decide) 0 t (passTrace s.cur s) (pendingCount s) hq hfault hagenda hevents
    (by rw [← hcount, ← hevents]) htctx
  have hset : t.ctxs.set t.cur ⟨q, stack⟩ = s.ctxs.set s.cur ⟨q, stack⟩ := List.set_set _
  rw [hset] at hrun
  exact (runSteps_succ _ hstep).trans hrun

end Sys2Proof.Proofs
end

section
/-! PROOF. The Interrupt Chip while the sampler steps inside its operations (44_interrupt_chip.md R173), and the wait for the lock and the end of
an operation set aside (20_memory.md R61). -/

namespace Sys2Proof.Machine

/-! ### Sampler steps between the steps of an operation -/

/-- `t` is `s` after moves of the sampler alone, with turns left in which only the sampler and context `c` move. -/
structure OnlySampled (c : Nat) (s t : State) : Prop where
  turns : onlySampler c t.turns = true
  evcfg : t.evcfg = s.evcfg
  trigType : t.trigType = s.trigType
  strat : t.strat = s.strat
  lock : t.lock = s.lock
  trace : t.trace = s.trace

/-- Between two steps of an operation that does not wait, the sampler moves and then the step is taken. -/
theorem interleave_onlySampler {c : Nat} {m : Micro} (ts : List Turn) :
    ∀ {s : State}, onlySampler c ts = true → m.blocked s = false →
    ∃ t, interleave c m ts s = (t, true) ∧ OnlySampled c s t := by
  induction ts with
  | nil => exact fun {s} _ hb => ⟨{ s with turns := [] }, by rw [interleave, hb]; rfl, ⟨rfl, rfl, rfl, rfl, rfl, rfl⟩⟩
  | cons turn ts ih =>
    intro s hts hb
    obtain ⟨hturn, hrest⟩ := Bool.and_eq_true_iff.mp hts
    cases turn with
    | preempt => cases hturn
    | sampler inp =>
      have hb' : m.blocked (sample inp s) = false := by rwa [Micro.blocked, sample_lock]
      obtain ⟨t, ht, hsampled⟩ := ih hrest hb'
      obtain ⟨h₁, h₂, h₃, h₄, h₅, h₆⟩ := hsampled
      exact ⟨t, ht, h₁, h₂.trans (sample_evcfg inp s), h₃.trans (sample_trigType inp s), h₄.trans (sample_strat inp s),
        h₅.trans (sample_lock inp s), h₆.trans (sample_trace inp s)⟩
    | ctx d =>
      obtain rfl : d = c := of_decide_eq_true hturn
      exact ⟨{ s with turns := ts }, by rw [interleave, if_pos rfl, hb]; rfl, ⟨hrest, rfl, rfl, rfl, rfl, rfl⟩⟩

/-- One step of an operation inside which only the sampler moves. -/
theorem runOp_onlySampler {c : Nat} (ret : Return) {m : Micro} (rest : List Micro) (latch : Half) {s : State}
    (hs : onlySampler c s.turns = true) (hb : m.blocked s = false) :
    ∃ t, OnlySampled c s t ∧ ∀ l u, m.run c latch t = .more l u → runOp c ret (m :: rest) latch s = runOp c ret rest l u := by
  obtain ⟨t, ht, hsampled⟩ : ∃ t, (if m.shared then interleave c m s.turns s else (s, true)) = (t, true) ∧ OnlySampled c s t := by
    split
    · exact interleave_onlySampler s.turns hs hb
    · exact ⟨s, rfl, hs, rfl, rfl, rfl, rfl, rfl⟩
  refine ⟨t, hsampled, fun l u hrun => ?_⟩
  rw [runOp, ht]
  simp only [if_true, hrun]

/-! ### What the siblings of a position keep -/

/-- Slot, stored type and strategy of every position but `i` are in `t` as in `s`; `t` has further outputs at most, and only the sampler
and context `c` have turns left. -/
structure SiblingsKept (c i : Nat) (s t : State) : Prop where
  turns : onlySampler c t.turns = true
  slots : ∀ p, p ≠ i → slotAt t p = slotAt s p
  types : ∀ p, p ≠ i → entry t.trigType p = entry s.trigType p
  strats : ∀ p, p ≠ i → stratEntry t.strat p = stratEntry s.strat p
  trace : ∃ tr, t.trace = s.trace ++ tr

theorem stratEntry_putEntry_other {n : Nat} (v : Vector Strategy n) {i p : Nat} (x : Strategy) (h : p ≠ i) :
    stratEntry (putEntry v i x) p = stratEntry v p := by
  unfold stratEntry putEntry
  rw [Vector.getElem?_setIfInBounds, if_neg (Ne.symm h)]

/-- An update of an event-config word that changes slot `k` alone. -/
def Update.OnlySlot (u : Update) (k : Nat) : Prop :=
  ∀ (w : Half) (s : State) (j : Nat), j < 8 → j ≠ k → slotGet (u.eval w s) j = slotGet w j

/-- A step that touches no slot, and type and strategy of position `i` alone. -/
def Micro.onlyPosition (i : Nat) : Micro → Bool
  | .setType j _ => decide (j = i)
  | .setStrat j _ => decide (j = i)
  | .read r => (regOffset r).isSome
  | .write .ctrl _ => true
  | .write (.bank .evsts b) _ => decide (b < 8)
  | _ => false

theorem ifenSteps_onlyPosition (i : Nat) (en : Bool) : (ifenSteps en).all (Micro.onlyPosition i) = true := rfl

namespace SiblingsKept

variable {c i : Nat} {s t u : State}

theorem refl (h : onlySampler c s.turns = true) : SiblingsKept c i s s := ⟨h, fun _ _ => rfl, fun _ _ => rfl, fun _ _ => rfl, [], by simp⟩

theorem trans (h : SiblingsKept c i s t) (h' : SiblingsKept c i t u) : SiblingsKept c i s u := by
  obtain ⟨-, hslots, htypes, hstrats, tr, htr⟩ := h
  obtain ⟨hturns, hslots', htypes', hstrats', tr', htr'⟩ := h'
  exact ⟨hturns, fun p hp => (hslots' p hp).trans (hslots p hp), fun p hp => (htypes' p hp).trans (htypes p hp),
    fun p hp => (hstrats' p hp).trans (hstrats p hp), tr ++ tr', by rw [htr', htr, List.append_assoc]⟩

/-- Where event-config registers, types and strategies are as they were. -/
theorem of_eq (hturns : onlySampler c t.turns = true) (he : t.evcfg = s.evcfg) (ht : t.trigType = s.trigType)
    (hs : t.strat = s.strat) (htr : ∃ tr, t.trace = s.trace ++ tr) : SiblingsKept c i s t :=
  ⟨hturns, fun p _ => by rw [slotAt, slotAt, he], fun p _ => by rw [ht], fun p _ => by rw [hs], htr⟩

theorem of_onlySampled (h : OnlySampled c s t) : SiblingsKept c i s t :=
  of_eq h.turns h.evcfg h.trigType h.strat ⟨[], by simp [h.trace]⟩

/-- A step that touches position `i` alone goes on, and keeps the siblings. -/
theorem step {m : Micro} (hm : m.onlyPosition i = true) (latch : Half) (h : onlySampler c s.turns = true) :
    ∃ l t, m.run c latch s = .more l t ∧ SiblingsKept c i s t := by
  match m, hm with
  | .setType j code, hm =>
    obtain rfl : j = i := of_decide_eq_true hm
    exact ⟨latch, _, rfl, h, fun _ _ => rfl, fun p hp => entry_putEntry_other _ _ _ _ (Ne.symm hp), fun _ _ => rfl, [], by simp⟩
  | .setStrat j st, hm =>
    obtain rfl : j = i := of_decide_eq_true hm
    exact ⟨latch, _, rfl, h, fun _ _ => rfl, fun _ _ => rfl, fun p hp => stratEntry_putEntry_other _ _ hp, [], by simp⟩
  | .read r, hm =>
    exact ⟨_, _, if_pos hm, of_eq h rfl rfl rfl ⟨_, rfl⟩⟩
  | .write .ctrl v, _ =>
    exact ⟨_, _, rfl, of_eq (by rwa [afterWrite_turns]) rfl rfl rfl ⟨_, rfl⟩⟩
  | .write (.bank .evsts b) v, hm =>
    exact ⟨_, _, if_pos (regOffset_bank .evsts b (of_decide_eq_true hm)), of_eq (by rwa [afterWrite_turns]) rfl rfl rfl ⟨_, rfl⟩⟩

/-- A run over steps that touch position `i` alone. -/
theorem runOp_steps (ret : Return) (pre rest : List Micro) (hpre : pre.all (Micro.onlyPosition i) = true) :
    ∀ (latch : Half) {s : State}, onlySampler c s.turns = true →
    ∃ l t, runOp c ret (pre ++ rest) latch s = runOp c ret rest l t ∧ SiblingsKept c i s t := by
  induction pre with
  | nil => exact fun latch s h => ⟨latch, s, rfl, refl h⟩
  | cons m pre ih =>
    intro latch s h
    obtain ⟨hm, hpre'⟩ := Bool.and_eq_true_iff.mp hpre
    have hne : m ≠ .acquire := by
      rintro rfl
      cases hm
    obtain ⟨s', hsampled, hstep⟩ := runOp_onlySampler ret (pre ++ rest) latch h (blocked_of_ne_acquire m s hne)
    obtain ⟨l, t, hrun, hkept⟩ := step hm latch hsampled.turns
    obtain ⟨l', u, hrest, hkept'⟩ := ih hpre' l hkept.turns
    exact ⟨l', u, (hstep l t hrun).trans hrest, ((of_onlySampled hsampled).trans hkept).trans hkept'⟩

/-- The read-modify-write of an event-config word that changes the slot of position `i` alone: what is read is still there when it is
written, whatever the sampler does in between. -/
theorem runOp_rewrite (ret : Return) {upd : Update} (hupd : upd.OnlySlot (bitOf i)) (hb : bankOf i < 8) (rest : List Micro)
    (latch : Half) (h : onlySampler c s.turns = true) :
    ∃ l t, runOp c ret (.read (.bank .evcfg (bankOf i)) :: .write (.bank .evcfg (bankOf i)) upd :: rest) latch s =
      runOp c ret rest l t ∧ SiblingsKept c i s t := by
  have hr := regOffset_bank .evcfg (bankOf i) hb
  obtain ⟨s₁, hs₁, hread⟩ := runOp_onlySampler (m := .read (.bank .evcfg (bankOf i))) ret
    (.write (.bank .evcfg (bankOf i)) upd :: rest) latch h (blocked_of_ne_acquire _ s (by simp))
  let s₂ := afterRead c (.bank .evcfg (bankOf i)) s₁
  let w := entry s₁.evcfg (bankOf i)
  obtain ⟨s₃, hs₃, hwrite⟩ := runOp_onlySampler (s := s₂) (m := .write (.bank .evcfg (bankOf i)) upd) ret rest w hs₁.turns
    (blocked_of_ne_acquire _ _ (by simp))
  let t := afterWrite c (.bank .evcfg (bankOf i)) (upd.eval w s₃) s₃
  refine ⟨w, t, (hread w s₂ (if_pos hr)).trans (hwrite w t (if_pos hr)), ?_⟩
  have hbefore : SiblingsKept c i s s₃ :=
    ((of_onlySampled hs₁).trans (of_eq (t := s₂) hs₁.turns rfl rfl rfl ⟨_, rfl⟩)).trans (of_onlySampled hs₃)
  refine hbefore.trans ⟨hs₃.turns, fun p hp => ?_, fun _ _ => rfl, fun _ _ => rfl, _, rfl⟩
  have hsame : entry s₃.evcfg (bankOf i) = w := by rw [hs₃.evcfg]; rfl
  change slotGet (entry (putEntry s₃.evcfg (bankOf i) (upd.eval w s₃)) (bankOf p)) (bitOf p) = slotGet (entry s₃.evcfg (bankOf p)) (bitOf p)
  by_cases hbank : bankOf p = bankOf i
  · rw [hbank, entry_putEntry_same _ _ _ hb, hupd _ _ _ (bitOf_lt_eight p) fun hbit => hp (position_ext hbank hbit), hsame]
  · rw [entry_putEntry_other _ _ _ _ (Ne.symm hbank)]

/-- A locked body with one such read-modify-write completes, releases the lock and keeps the siblings. -/
theorem start_locked {pre post : List Micro} {upd : Update} (hpre : pre.all (Micro.onlyPosition i) = true)
    (hpost : post.all (Micro.onlyPosition i) = true) (hupd : upd.OnlySlot (bitOf i)) (hb : bankOf i < 8)
    (h : onlySampler s.cur s.turns = true) (hfree : s.lock = .free) :
    ∃ t, start (locked (pre ++ .read (.bank .evcfg (bankOf i)) :: .write (.bank .evcfg (bankOf i)) upd :: post)) .ok s =
      .next (finish s.cur .ok t) ∧ t.lock = .free ∧ SiblingsKept s.cur i s t := by
  obtain ⟨s₁, hs₁, hacquire⟩ := runOp_onlySampler (m := .acquire) .ok
    (pre ++ .read (.bank .evcfg (bankOf i)) :: .write (.bank .evcfg (bankOf i)) upd :: post ++ [.release]) 0 h (blocked_of_free _ s hfree)
  let s₂ : State := { s₁ with lock := .held s.cur }
  have hk₂ : SiblingsKept s.cur i s s₂ := (of_onlySampled hs₁).trans (of_eq hs₁.turns rfl rfl rfl ⟨[], by simp [s₂]⟩)
  obtain ⟨l₃, s₃, hrun₃, hk₃⟩ := runOp_steps .ok pre
    (.read (.bank .evcfg (bankOf i)) :: .write (.bank .evcfg (bankOf i)) upd :: post ++ [.release]) hpre 0 hk₂.turns
  obtain ⟨l₄, s₄, hrun₄, hk₄⟩ := runOp_rewrite .ok hupd hb (post ++ [.release]) l₃ hk₃.turns
  obtain ⟨l₅, s₅, hrun₅, hk₅⟩ := runOp_steps .ok post [.release] hpost l₄ hk₄.turns
  obtain ⟨s₆, hs₆, hrelease⟩ := runOp_onlySampler (m := .release) .ok [] l₅ hk₅.turns (blocked_of_ne_acquire _ s₅ (by simp))
  let t : State := { s₆ with lock := .free }
  have hkept := (((hk₂.trans hk₃).trans hk₄).trans hk₅).trans (of_onlySampled hs₆)
  refine ⟨t, congrArg Host.Outcome.next ?_, rfl, hkept.trans (of_eq hkept.turns rfl rfl rfl ⟨[], by simp [t]⟩)⟩
  have hlock : s₁.lock = .free := hs₁.lock.trans hfree
  calc
    _ = _ := hacquire 0 s₂ (if_pos hlock)
    _ = _ := by rw [List.append_assoc]; exact hrun₃
    _ = _ := hrun₄
    _ = _ := hrun₅
    _ = _ := hrelease l₅ t rfl

end SiblingsKept

/-! ### Waiting, and going on -/

/-- A locked operation that finds the lock held waits with all its steps to do (R61). -/
theorem start_locked_held {s : State} {body : List Micro} (hq : s.quiet) (hheld : s.lock ≠ .free) :
    start (locked body) .ok s = .next (pushFrame s.cur ⟨0, locked body, .ok, false⟩ s) := by
  rw [start, locked, List.cons_append, runOp_acquire_held _ _ _ _ _ hq hheld]

/-- A context with an operation in progress that nothing holds up goes on with it, unless it is to take the interrupt. -/
theorem step_resume {s : State} {f : Frame} {below : List Frame} (hfault : s.fault = []) (hagenda : s.agenda = [])
    (hreq : ∀ q, (ctxAt s s.cur).requests ≠ .interrupt :: q) (hstack : (ctxAt s s.cur).stack = f :: below)
    (hin : f.inHandler = false) :
    step s = .next (runOp s.cur f.ret f.todo f.latch (setStack s.cur below s)) := by
  have hbusy : busy s.cur s = true := by simp [busy, hstack, hin]
  have hresume : resume s.cur s = runOp s.cur f.ret f.todo f.latch (setStack s.cur below s) := by
    simp [resume, hstack, hin]
  rw [step_eq_act hfault hagenda, act, ← hresume]
  split
  · rfl
  · next q hq => exact absurd hq (hreq q)
  · rw [if_pos hbusy]
  · rw [if_pos hbusy]

/-- An undisturbed run that nothing holds up ends, hands back a result, and leaves the lock free if it had or took it. -/
theorem runOp_ends {c : Nat} {ret : Return} (prog : List Micro) (hscan : ∀ b k, .scan b k ∉ prog) :
    ∀ (inside : Bool) (latch : Half) (s : State), s.turns = [] → prog.all Micro.inRange = true → lockShape inside prog = true →
    (.acquire ∈ prog → s.lock = .free ∨ inside = true) →
    ∃ (r : Result) (e : List Event), (runOp c ret prog latch s).ctxs = s.ctxs ∧
      (runOp c ret prog latch s).trace = s.trace ++ e ++ [.done c r] ∧
      (runOp c ret prog latch s).lock = if inside = true ∨ .acquire ∈ prog then .free else s.lock := by
  induction prog with
  | nil =>
    intro inside latch s _ _ hshape _
    obtain rfl : inside = false := by simpa [lockShape] using hshape
    exact ⟨ret.eval latch, [], rfl, by simp, rfl⟩
  | cons m rest ih =>
    intro inside latch s hq hrange hshape hfree
    obtain ⟨hm, hrest⟩ := Bool.and_eq_true_iff.mp hrange
    have ihr := ih fun b k hmem => hscan b k (List.mem_cons_of_mem m hmem)
    have same : ∀ (latch' : Half) (s' : State), m ≠ .acquire → s'.turns = [] → s'.ctxs = s.ctxs → s'.lock = s.lock →
        (∃ e, s'.trace = s.trace ++ e) → lockShape inside rest = true →
        ∃ (r : Result) (e : List Event), (runOp c ret rest latch' s').ctxs = s.ctxs ∧
          (runOp c ret rest latch' s').trace = s.trace ++ e ++ [.done c r] ∧
          (runOp c ret rest latch' s').lock = if inside = true ∨ .acquire ∈ m :: rest then .free else s.lock := by
      intro latch' s' hne hq' hctxs hlock ⟨e, htrace⟩ hshape'
      obtain ⟨r, e', hctxs', htrace', hlock'⟩ := ihr inside latch' s' hq' hrest hshape' fun hmem => by
        rw [hlock]
        exact hfree (List.mem_cons_of_mem m hmem)
      refine ⟨r, e ++ e', hctxs'.trans hctxs, by rw [htrace', htrace, List.append_assoc s.trace], ?_⟩
      rw [hlock', hlock]
      simp [hne.symm]
    cases m with
    | acquire =>
      obtain ⟨hout, hshape'⟩ : inside = false ∧ lockShape true rest = true := by simpa [lockShape] using hshape
      have hlock : s.lock = .free := (hfree (by simp)).resolve_right (by simp [hout])
      rw [runOp_acquire _ _ _ _ _ hq hlock]
      obtain ⟨r, e, hctxs, htrace, hlock'⟩ := ihr true latch { s with lock := .held c } hq hrest hshape' fun _ => .inr rfl
      exact ⟨r, e, hctxs, htrace, by rw [hlock']; simp⟩
    | release =>
      obtain ⟨hin, hshape'⟩ : inside = true ∧ lockShape false rest = true := by simpa [lockShape] using hshape
      rw [runOp_release _ _ _ _ _ hq]
      obtain ⟨r, e, hctxs, htrace, hlock'⟩ := ihr false latch { s with lock := .free } hq hrest hshape' fun _ => .inl rfl
      exact ⟨r, e, hctxs, htrace, by rw [hlock']; simp [hin]⟩
    | setType i code =>
      rw [runOp_setType _ _ _ _ _ _ _ hq]
      exact same latch _ (by simp) hq rfl rfl ⟨[], by simp⟩ hshape
    | setStrat i st =>
      rw [runOp_setStrat _ _ _ _ _ _ _ hq]
      exact same latch _ (by simp) hq rfl rfl ⟨[], by simp⟩ hshape
    | read r =>
      rw [runOp_read _ _ _ _ _ _ hq hm]
      exact same _ _ (by simp) hq rfl rfl ⟨_, rfl⟩ hshape
    | write r u =>
      rw [runOp_write _ _ _ _ _ _ _ hq hm]
      exact same latch _ (by simp) (by simpa using hq) (by simp) (by simp) ⟨_, afterWrite_trace _ _ _ _⟩ hshape
    | check v =>
      obtain ⟨hout, hshape'⟩ : inside = false ∧ lockShape false rest = true := by simpa [lockShape] using hshape
      rw [runOp_check _ _ _ _ _ _ hq]
      split
      · exact same latch s (by simp) hq rfl rfl ⟨[], by simp⟩ (hout ▸ hshape')
      · refine ⟨.error .portWidthReadbackMismatch, [], rfl, by simp, ?_⟩
        split
        · next hmem => exact (hfree (hmem.resolve_left (by simp [hout]))).resolve_right (by simp [hout])
        · rfl
    | bringUp =>
      rw [runOp_bringUp _ _ _ _ _ hq]
      exact same latch _ (by simp) hq rfl rfl ⟨[], by simp⟩ hshape
    | scan b k => exact absurd (List.mem_cons_self ..) (hscan b k)

end Sys2Proof.Machine

namespace Sys2Proof.Proofs

open Sys2Proof.Machine

/-- Settles O48: each of the three operations is one read-modify-write of the line's slot between steps that touch its position alone. -/
theorem siblingsAreIsolatedUnderTheSampler : Obligations.SiblingsAreIsolatedUnderTheSampler := by
  intro s l ty i honly hup hfree hge hlt h64 hty hi
  let p := rel s.params l
  have hb : bankOf p < 8 := bankOf_rel_lt hge hlt h64
  obtain ⟨c, st, ht⟩ : ∃ c st, triggerOf ty = some (c, st) := by
    have h : ∀ ty : BitVec 4, ty.toNat ∈ [1, 2, 3, 4, 8] → (triggerOf ty).isSome = true := by decide
    obtain ⟨⟨c, st⟩, h⟩ := Option.isSome_iff_exists.mp (h ty hty)
    exact ⟨c, st, h⟩
  have hclear : (clearStatus (bankOf p) (bitOf p)).onlyPosition p = true := decide_eq_true hb
  have hpost : (ifenSteps true ++ [clearStatus (bankOf p) (bitOf p)]).all (Micro.onlyPosition p) = true := by
    rw [List.all_append, ifenSteps_onlyPosition, List.all_cons, hclear]
    rfl
  have hshadow : ([Micro.setType p c, .setStrat p st] ++ ifenSteps false).all (Micro.onlyPosition p) = true := by
    rw [List.all_append, ifenSteps_onlyPosition]
    simp [Micro.onlyPosition]
  have hor : Update.OnlySlot (.orSlot (bitOf p) c) (bitOf p) := fun w _ j hj hne =>
    (slotGet_orSlotValue w _ j c hj).trans (if_neg hne)
  have hzero : Update.OnlySlot (.clearSlot (bitOf p)) (bitOf p) := fun w _ j hj hne =>
    (slotGet_clearSlotValue w _ j (bitOf_lt_eight p) hj).trans (if_neg hne)
  have hrestore : Update.OnlySlot (.restoreSlot (bitOf p) p) (bitOf p) := fun w s j hj hne =>
    (slotGet_restoreSlotValue s.params.unmaskMerge w _ j _ (bitOf_lt_eight p) hj).trans (if_neg hne)
  obtain ⟨t, hexec, hlock, hkept⟩ : ∃ t, exec i s = .next (finish s.cur .ok t) ∧ t.lock = .free ∧ SiblingsKept s.cur p s t := by
    simp only [List.mem_cons, List.not_mem_nil, or_false] at hi
    rcases hi with rfl | rfl | rfl
    · rw [exec_settype hup hge hlt ht]
      exact SiblingsKept.start_locked (pre := [.setType p c, .setStrat p st] ++ ifenSteps false) (post := ifenSteps true)
        hshadow (ifenSteps_onlyPosition p true) hor hb honly hfree
    · rw [exec_mask hup hge hlt]
      exact SiblingsKept.start_locked (pre := ifenSteps false) (ifenSteps_onlyPosition p false) hpost hzero hb
        honly hfree
    · rw [exec_unmask hup hge hlt]
      exact SiblingsKept.start_locked (pre := ifenSteps false) (ifenSteps_onlyPosition p false) hpost hrestore hb
        honly hfree
  obtain ⟨-, hslots, htypes, hstrats, tr, htr⟩ := hkept
  exact ⟨_, hexec, hlock, ⟨tr, by rw [finish_trace, htr]⟩, fun q _ hq => ⟨hslots q hq, htypes q hq, hstrats q hq⟩⟩

/-- Settles O49: the acquisition waits; a step of the context runs what is left of the operation; and such a run ends. -/
theorem lockedOperationsWaitForTheLock : Obligations.LockedOperationsWaitForTheLock := by
  refine ⟨?_, ?_, ?_⟩
  · intro s d l ty c st hq hup hheld hge hlt ht i waiting
    have hne : s.lock ≠ .free := by simp [hheld]
    exact ⟨(exec_settype hup hge hlt ht).trans (start_locked_held hq hne), (exec_mask hup hge hlt).trans (start_locked_held hq hne),
      (exec_unmask hup hge hlt).trans (start_locked_held hq hne), (exec_ack hup hge hlt).trans (start_locked_held hq hne)⟩
  · intro s l ty c st below hfault hagenda hreq hup hge hlt ht i waited resumed
    have hrun (steps : List Micro) (hwaited : waited steps) : step s = start steps .ok resumed :=
      step_resume hfault hagenda hreq hwaited rfl
    exact ⟨fun h => (hrun _ h).trans (exec_settype (s := resumed) hup hge hlt ht).symm,
      fun h => (hrun _ h).trans (exec_mask (s := resumed) hup hge hlt).symm,
      fun h => (hrun _ h).trans (exec_unmask (s := resumed) hup hge hlt).symm,
      fun h => (hrun _ h).trans (exec_ack (s := resumed) hup hge hlt).symm⟩
  · intro s f below hfault hagenda hq hreq hstack hin hsound hfree hscan
    have hlt : s.cur < s.ctxs.length := exists_of_stack (by simp [hstack])
    have hshape : lockShape f.insideLock f.todo = true := by
      cases hinside : f.insideLock with
      | true => exact hinside
      | false => exact hsound.shape.resolve_right (by simpa [Frame.insideLock] using hinside)
    obtain ⟨r, e, hctxs, htrace, hlock⟩ := runOp_ends (c := s.cur) (ret := f.ret) f.todo hscan f.insideLock f.latch
      (setStack s.cur below s) hq hsound.inRange hshape hfree
    refine ⟨_, r, e, step_resume hfault hagenda hreq hstack hin, ?_, htrace, hlock⟩
    have hstacks := congrFun (stacks_congr hctxs) s.cur
    rw [stacks_setStack hlt, withStack, if_pos rfl] at hstacks
    exact hstacks

end Sys2Proof.Proofs
end
